-- ==== Sys2Proof/Word.lean ====
section
/-! DEFINITION. The bit vectors of the machine: bytes, 16-bit words, the 4-bit and 12-bit fields of an instruction (R5, R7, R71). -/

namespace Sys2Proof

/-- A register or memory byte, unsigned (R7, R20, R31). -/
abbrev Byte := BitVec 8

/-- A 16-bit quantity: instruction word, `pc`, `I`, a stack slot (R5). -/
abbrev Word := BitVec 16

/-- A 4-bit field: the register numbers `x`, `y`, the row count `n`, a key number (R71, R28). -/
abbrev Nibble := BitVec 4

/-- The 12-bit field `nnn`, a byte address (R71, R73). -/
abbrev Addr12 := BitVec 12

end Sys2Proof
end

