-- ==== Sys2Proof/Config.lean ====
section
/-! DEFINITION. The identity (R1), the parameters of Init (R6, R43) and the free values: what the host does and what the spec leaves unspecified.
A free value is an opaque constant: no proof can see its value. -/

namespace Sys2Proof

/-- R1: the identity a model should carry. -/
def Config.identity : String := "CHIP-8 / andreijohndev-Chip8 / D0"

/-- The arguments of `Init(PROGRAM; FONT, MEM_FILL)` (R6, R43, R190). -/
structure InitArgs where
  /-- The ROM image, copied from `0x200`. -/
  program : List Byte
  /-- The 80 font bytes, copied to `0x000`..`0x04F`. -/
  font : List Byte
  /-- The initial value of every byte that is neither font nor program. -/
  memFill : Byte
  deriving DecidableEq, Repr

/-- The `keys` sample of a Step event the host's queue does not list (R38: it "may change freely between Steps"). Free value; log 2. -/
opaque Config.keysInput : Nat → BitVec 16

/-- The `rnd` sample of a Step event the host's queue does not list (R39: "No law constrains it"). Free value; log 2. -/
opaque Config.rndInput : Nat → Byte

/-- How many Tick events the host issues before a Step event its queue does not list (R184: "any interleaving is legal"). Free value; log 3. -/
opaque Config.ticksBefore : Nat → Nat

/-- `fault_info.opcode` where it is "not meaningful for the code" (R176: "unspecified and no rule reads them"). Free value; log 6. -/
opaque Config.unspecifiedOpcode : Nat → Word

/-- `fault_info.ea` where it is "not meaningful for the code" (R176). Free value; log 6. -/
opaque Config.unspecifiedEa : Nat → BitVec 17

end Sys2Proof
end

