-- ==== Sys2Proof/Syntax.lean ====
section
/-! DEFINITION. The 34 instructions, one constructor per row of the opcode map (R74), in its order. -/

namespace Sys2Proof

/-- An instruction with its fields (R71): `x`, `y` register numbers, `n` a row count, `kk` an 8-bit constant, `nnn` a byte address. -/
inductive Instr where
  /-- `00E0` CLS -/
  | cls
  /-- `00EE` RET -/
  | ret
  /-- `1nnn` JP nnn -/
  | jp (nnn : Addr12)
  /-- `2nnn` CALL nnn -/
  | call (nnn : Addr12)
  /-- `3xkk` SE Vx, kk -/
  | seImm (x : Nibble) (kk : Byte)
  /-- `4xkk` SNE Vx, kk -/
  | sneImm (x : Nibble) (kk : Byte)
  /-- `5xy0` SE Vx, Vy -/
  | seReg (x y : Nibble)
  /-- `6xkk` LD Vx, kk -/
  | ldImm (x : Nibble) (kk : Byte)
  /-- `7xkk` ADD Vx, kk -/
  | addImm (x : Nibble) (kk : Byte)
  /-- `8xy0` LD Vx, Vy -/
  | ldReg (x y : Nibble)
  /-- `8xy1` OR Vx, Vy -/
  | orReg (x y : Nibble)
  /-- `8xy2` AND Vx, Vy -/
  | andReg (x y : Nibble)
  /-- `8xy3` XOR Vx, Vy -/
  | xorReg (x y : Nibble)
  /-- `8xy4` ADD Vx, Vy -/
  | addReg (x y : Nibble)
  /-- `8xy5` SUB Vx, Vy -/
  | sub (x y : Nibble)
  /-- `8xy6` SHR Vx; the field `y` is encoded and unused (R78). -/
  | shr (x y : Nibble)
  /-- `8xy7` SUBN Vx, Vy -/
  | subn (x y : Nibble)
  /-- `8xyE` SHL Vx; the field `y` is encoded and unused (R78). -/
  | shl (x y : Nibble)
  /-- `9xy0` SNE Vx, Vy -/
  | sneReg (x y : Nibble)
  /-- `Annn` LD I, nnn -/
  | ldI (nnn : Addr12)
  /-- `Bnnn` JP V0, nnn -/
  | jpV0 (nnn : Addr12)
  /-- `Cxkk` RND Vx, kk -/
  | rnd (x : Nibble) (kk : Byte)
  /-- `Dxyn` DRW Vx, Vy, n -/
  | drw (x y n : Nibble)
  /-- `Ex9E` SKP Vx -/
  | skp (x : Nibble)
  /-- `ExA1` SKNP Vx -/
  | sknp (x : Nibble)
  /-- `Fx07` LD Vx, DT -/
  | ldVxDt (x : Nibble)
  /-- `Fx0A` LD Vx, K -/
  | ldVxK (x : Nibble)
  /-- `Fx15` LD DT, Vx -/
  | ldDtVx (x : Nibble)
  /-- `Fx18` LD ST, Vx -/
  | ldStVx (x : Nibble)
  /-- `Fx1E` ADD I, Vx -/
  | addI (x : Nibble)
  /-- `Fx29` LD F, Vx -/
  | ldF (x : Nibble)
  /-- `Fx33` BCD Vx -/
  | bcd (x : Nibble)
  /-- `Fx55` LD [I], Vx -/
  | storeRegs (x : Nibble)
  /-- `Fx65` LD Vx, [I] -/
  | loadRegs (x : Nibble)
  deriving DecidableEq, Repr

end Sys2Proof
end

