-- ==== Sys2Proof/WellFormed.lean ====
section
/-! DEFINITION. What is checked before a term may be given to the machine: the arguments of Init (R5, R6, R191), and the
operand ranges of an instruction (R73), which its field types already guarantee. -/

namespace Sys2Proof

/-- R191: the precondition of Init on its program, `len(PROGRAM) <= 4096 - 0x200 = 3584`. -/
def InitArgs.programFits (a : InitArgs) : Bool := decide (a.program.length ≤ 3584)

/-- R5, R6: `FONT` is 80 bytes. -/
def InitArgs.fontComplete (a : InitArgs) : Bool := decide (a.font.length = 80)

/-- The arguments are those of an Init event of the machine. -/
def InitArgs.wf (a : InitArgs) : Bool := a.programFits && a.fontComplete

/-- R73: register numbers and `n` in 0..15, `kk` in 0..255, `nnn` in 0..4095. Every `Instr` passes, since its fields are bit
vectors of exactly these widths (R20: "a register index is never out of range"); stated per operand so that it can be read off. -/
def Instr.wf : Instr → Bool
  | .cls | .ret => true
  | .jp nnn | .call nnn | .ldI nnn | .jpV0 nnn => decide (nnn.toNat ≤ 4095)
  | .seImm x kk | .sneImm x kk | .ldImm x kk | .addImm x kk | .rnd x kk => decide (x.toNat ≤ 15) && decide (kk.toNat ≤ 255)
  | .seReg x y | .ldReg x y | .orReg x y | .andReg x y | .xorReg x y | .addReg x y | .sub x y | .shr x y | .subn x y | .shl x y
  | .sneReg x y => decide (x.toNat ≤ 15) && decide (y.toNat ≤ 15)
  | .drw x y n => decide (x.toNat ≤ 15) && decide (y.toNat ≤ 15) && decide (n.toNat ≤ 15)
  | .skp x | .sknp x | .ldVxDt x | .ldVxK x | .ldDtVx x | .ldStVx x | .addI x | .ldF x | .bcd x | .storeRegs x
  | .loadRegs x => decide (x.toNat ≤ 15)

end Sys2Proof
end

