-- ==== Sys2Proof/Decode.lean ====
section
/-! DEFINITION. The decoder, total on every word and on any bytes, and the encoder (R70 to R79). -/

namespace Sys2Proof

/-! ## Fields (R71) -/

/-- `op` = bits 15:12. -/
def fieldOp (w : Word) : Nibble := w.extractLsb' 12 4
/-- `x` = bits 11:8. -/
def fieldX (w : Word) : Nibble := w.extractLsb' 8 4
/-- `y` = bits 7:4. -/
def fieldY (w : Word) : Nibble := w.extractLsb' 4 4
/-- `n` = bits 3:0. -/
def fieldN (w : Word) : Nibble := w.extractLsb' 0 4
/-- `kk` = bits 7:0. -/
def fieldKK (w : Word) : Byte := w.extractLsb' 0 8
/-- `nnn` = bits 11:0. -/
def fieldNNN (w : Word) : Addr12 := w.extractLsb' 0 12

/-! ## Decode of a word (R74, R75, R77) -/

/-- Group 0: the whole word must be `0x00E0` or `0x00EE`. -/
def decodeGroup0 (w : Word) : Option Instr :=
  if w = 0x00E0#16 then some .cls else if w = 0x00EE#16 then some .ret else none

/-- Group 8: `n` selects among 0..7 and `E`. -/
def decodeGroup8 (w : Word) : Option Instr :=
  match (fieldN w).toNat with
  | 0x0 => some (.ldReg (fieldX w) (fieldY w))
  | 0x1 => some (.orReg (fieldX w) (fieldY w))
  | 0x2 => some (.andReg (fieldX w) (fieldY w))
  | 0x3 => some (.xorReg (fieldX w) (fieldY w))
  | 0x4 => some (.addReg (fieldX w) (fieldY w))
  | 0x5 => some (.sub (fieldX w) (fieldY w))
  | 0x6 => some (.shr (fieldX w) (fieldY w))
  | 0x7 => some (.subn (fieldX w) (fieldY w))
  | 0xE => some (.shl (fieldX w) (fieldY w))
  | _ => none

/-- Group E: `kk` must be `0x9E` or `0xA1`. -/
def decodeGroupE (w : Word) : Option Instr :=
  match (fieldKK w).toNat with
  | 0x9E => some (.skp (fieldX w))
  | 0xA1 => some (.sknp (fieldX w))
  | _ => none

/-- Group F: `kk` must be one of nine values. -/
def decodeGroupF (w : Word) : Option Instr :=
  match (fieldKK w).toNat with
  | 0x07 => some (.ldVxDt (fieldX w))
  | 0x0A => some (.ldVxK (fieldX w))
  | 0x15 => some (.ldDtVx (fieldX w))
  | 0x18 => some (.ldStVx (fieldX w))
  | 0x1E => some (.addI (fieldX w))
  | 0x29 => some (.ldF (fieldX w))
  | 0x33 => some (.bcd (fieldX w))
  | 0x55 => some (.storeRegs (fieldX w))
  | 0x65 => some (.loadRegs (fieldX w))
  | _ => none

/-- R75: the decode procedure; `none` is the verdict `DecodeFailure` of R77. Groups 5 and 9 need `n = 0` (C4). -/
def decodeWord (w : Word) : Option Instr :=
  match (fieldOp w).toNat with
  | 0x0 => decodeGroup0 w
  | 0x1 => some (.jp (fieldNNN w))
  | 0x2 => some (.call (fieldNNN w))
  | 0x3 => some (.seImm (fieldX w) (fieldKK w))
  | 0x4 => some (.sneImm (fieldX w) (fieldKK w))
  | 0x5 => if fieldN w = 0#4 then some (.seReg (fieldX w) (fieldY w)) else none
  | 0x6 => some (.ldImm (fieldX w) (fieldKK w))
  | 0x7 => some (.addImm (fieldX w) (fieldKK w))
  | 0x8 => decodeGroup8 w
  | 0x9 => if fieldN w = 0#4 then some (.sneReg (fieldX w) (fieldY w)) else none
  | 0xA => some (.ldI (fieldNNN w))
  | 0xB => some (.jpV0 (fieldNNN w))
  | 0xC => some (.rnd (fieldX w) (fieldKK w))
  | 0xD => some (.drw (fieldX w) (fieldY w) (fieldN w))
  | 0xE => decodeGroupE w
  | 0xF => decodeGroupF w
  | _ => none

/-! ## Decode of bytes (R52, R70) -/

/-- Why bytes give no instruction. -/
inductive DecodeReject where
  /-- The word matches none of the 34 patterns (R77). -/
  | decodeFailure (w : Word)
  /-- Fewer than the two bytes every instruction has (R70). -/
  | truncated
  deriving DecidableEq, Repr

/-- Two bytes as a word, "combined big-endian": the byte at the lower address in bits 15:8 (R52). -/
def wordOfBytes (hi lo : Byte) : Word := hi ++ lo

/-- The byte of a word at the lower address (R52). -/
def highByte (w : Word) : Byte := w.extractLsb' 8 8

/-- The byte of a word at the higher address (R52). -/
def lowByte (w : Word) : Byte := w.extractLsb' 0 8

/-- The instruction at the head of a byte list and the bytes after it, or why there is none. -/
def decode : List Byte → Except DecodeReject (Instr × List Byte)
  | hi :: lo :: rest =>
    match decodeWord (wordOfBytes hi lo) with
    | some i => .ok (i, rest)
    | none => .error (.decodeFailure (wordOfBytes hi lo))
  | _ => .error .truncated

/-! ## Encode (R72, R74) -/

/-- Format NNN. -/
def wordNNN (op : Nibble) (nnn : Addr12) : Word := op ++ nnn
/-- Format XKK. -/
def wordXKK (op x : Nibble) (kk : Byte) : Word := op ++ x ++ kk
/-- Formats XYF and XYN. -/
def wordXYN (op x y n : Nibble) : Word := op ++ x ++ y ++ n

/-- The word of an instruction, from the patterns of R74. -/
def encode : Instr → Word
  | .cls => 0x00E0#16
  | .ret => 0x00EE#16
  | .jp nnn => wordNNN 0x1 nnn
  | .call nnn => wordNNN 0x2 nnn
  | .seImm x kk => wordXKK 0x3 x kk
  | .sneImm x kk => wordXKK 0x4 x kk
  | .seReg x y => wordXYN 0x5 x y 0x0
  | .ldImm x kk => wordXKK 0x6 x kk
  | .addImm x kk => wordXKK 0x7 x kk
  | .ldReg x y => wordXYN 0x8 x y 0x0
  | .orReg x y => wordXYN 0x8 x y 0x1
  | .andReg x y => wordXYN 0x8 x y 0x2
  | .xorReg x y => wordXYN 0x8 x y 0x3
  | .addReg x y => wordXYN 0x8 x y 0x4
  | .sub x y => wordXYN 0x8 x y 0x5
  | .shr x y => wordXYN 0x8 x y 0x6
  | .subn x y => wordXYN 0x8 x y 0x7
  | .shl x y => wordXYN 0x8 x y 0xE
  | .sneReg x y => wordXYN 0x9 x y 0x0
  | .ldI nnn => wordNNN 0xA nnn
  | .jpV0 nnn => wordNNN 0xB nnn
  | .rnd x kk => wordXKK 0xC x kk
  | .drw x y n => wordXYN 0xD x y n
  | .skp x => wordXKK 0xE x 0x9E
  | .sknp x => wordXKK 0xE x 0xA1
  | .ldVxDt x => wordXKK 0xF x 0x07
  | .ldVxK x => wordXKK 0xF x 0x0A
  | .ldDtVx x => wordXKK 0xF x 0x15
  | .ldStVx x => wordXKK 0xF x 0x18
  | .addI x => wordXKK 0xF x 0x1E
  | .ldF x => wordXKK 0xF x 0x29
  | .bcd x => wordXKK 0xF x 0x33
  | .storeRegs x => wordXKK 0xF x 0x55
  | .loadRegs x => wordXKK 0xF x 0x65

/-- The two bytes of an instruction as memory holds them (R52, R70). -/
def encodeBytes (i : Instr) : List Byte := [highByte (encode i), lowByte (encode i)]

/-! ## The opcode map as match and mask (R74) -/

/-- The match and mask columns of R74 for an instruction's row: a word `w` is this instruction exactly when `w & mask = match`. -/
structure Row where
  matchBits : Word
  maskBits : Word
  deriving DecidableEq, Repr

/-- The row of R74 an instruction belongs to. -/
def Instr.row : Instr → Row
  | .cls => ⟨0x00E0, 0xFFFF⟩
  | .ret => ⟨0x00EE, 0xFFFF⟩
  | .jp _ => ⟨0x1000, 0xF000⟩
  | .call _ => ⟨0x2000, 0xF000⟩
  | .seImm _ _ => ⟨0x3000, 0xF000⟩
  | .sneImm _ _ => ⟨0x4000, 0xF000⟩
  | .seReg _ _ => ⟨0x5000, 0xF00F⟩
  | .ldImm _ _ => ⟨0x6000, 0xF000⟩
  | .addImm _ _ => ⟨0x7000, 0xF000⟩
  | .ldReg _ _ => ⟨0x8000, 0xF00F⟩
  | .orReg _ _ => ⟨0x8001, 0xF00F⟩
  | .andReg _ _ => ⟨0x8002, 0xF00F⟩
  | .xorReg _ _ => ⟨0x8003, 0xF00F⟩
  | .addReg _ _ => ⟨0x8004, 0xF00F⟩
  | .sub _ _ => ⟨0x8005, 0xF00F⟩
  | .shr _ _ => ⟨0x8006, 0xF00F⟩
  | .subn _ _ => ⟨0x8007, 0xF00F⟩
  | .shl _ _ => ⟨0x800E, 0xF00F⟩
  | .sneReg _ _ => ⟨0x9000, 0xF00F⟩
  | .ldI _ => ⟨0xA000, 0xF000⟩
  | .jpV0 _ => ⟨0xB000, 0xF000⟩
  | .rnd _ _ => ⟨0xC000, 0xF000⟩
  | .drw _ _ _ => ⟨0xD000, 0xF000⟩
  | .skp _ => ⟨0xE09E, 0xF0FF⟩
  | .sknp _ => ⟨0xE0A1, 0xF0FF⟩
  | .ldVxDt _ => ⟨0xF007, 0xF0FF⟩
  | .ldVxK _ => ⟨0xF00A, 0xF0FF⟩
  | .ldDtVx _ => ⟨0xF015, 0xF0FF⟩
  | .ldStVx _ => ⟨0xF018, 0xF0FF⟩
  | .addI _ => ⟨0xF01E, 0xF0FF⟩
  | .ldF _ => ⟨0xF029, 0xF0FF⟩
  | .bcd _ => ⟨0xF033, 0xF0FF⟩
  | .storeRegs _ => ⟨0xF055, 0xF0FF⟩
  | .loadRegs _ => ⟨0xF065, 0xF0FF⟩

/-- A word matches a row: `w & mask = match` (R74). -/
def Row.covers (r : Row) (w : Word) : Bool := w &&& r.maskBits == r.matchBits

/-- The 34 rows of R74 in its order. -/
def opcodeRows : List Row :=
  [⟨0x00E0, 0xFFFF⟩, ⟨0x00EE, 0xFFFF⟩, ⟨0x1000, 0xF000⟩, ⟨0x2000, 0xF000⟩, ⟨0x3000, 0xF000⟩, ⟨0x4000, 0xF000⟩,
   ⟨0x5000, 0xF00F⟩, ⟨0x6000, 0xF000⟩, ⟨0x7000, 0xF000⟩] ++
  [⟨0x8000, 0xF00F⟩, ⟨0x8001, 0xF00F⟩, ⟨0x8002, 0xF00F⟩, ⟨0x8003, 0xF00F⟩, ⟨0x8004, 0xF00F⟩, ⟨0x8005, 0xF00F⟩,
   ⟨0x8006, 0xF00F⟩, ⟨0x8007, 0xF00F⟩, ⟨0x800E, 0xF00F⟩, ⟨0x9000, 0xF00F⟩] ++
  [⟨0xA000, 0xF000⟩, ⟨0xB000, 0xF000⟩, ⟨0xC000, 0xF000⟩, ⟨0xD000, 0xF000⟩, ⟨0xE09E, 0xF0FF⟩, ⟨0xE0A1, 0xF0FF⟩] ++
  [⟨0xF007, 0xF0FF⟩, ⟨0xF00A, 0xF0FF⟩, ⟨0xF015, 0xF0FF⟩, ⟨0xF018, 0xF0FF⟩, ⟨0xF01E, 0xF0FF⟩, ⟨0xF029, 0xF0FF⟩,
   ⟨0xF033, 0xF0FF⟩, ⟨0xF055, 0xF0FF⟩, ⟨0xF065, 0xF0FF⟩]

/-! ## The host's reading of a table word -/

/-- The first `nbits` bits of `w` as an instruction word, the bits above them 0 (log 18). -/
def tableWord (nbits w : Nat) : Word := BitVec.ofNat 16 (w % 2 ^ nbits)

/-- The instruction the decoder reads from the bytes of a table word, laid out as memory holds them. -/
def decodeTableWord (nbits w : Nat) : Option Instr :=
  match decode [highByte (tableWord nbits w), lowByte (tableWord nbits w)] with
  | .ok (i, _) => some i
  | .error _ => none

end Sys2Proof
end

