-- ==== Sys2Proof/Machine/State.lean ====
section
/-! DEFINITION. The state of the machine (`10_state.md`), its fault and refusal reasons, and the state right after reset. -/

namespace Sys2Proof.Machine

/-- The reasons a step stops with a fault. The machine's own five faults (R170 to R179) are NOT here: they are latched in
`State.fault` and the step goes on to a next state (log 7). -/
inductive Fault where
  /-- Raised by RET and CALL in a state whose `sp` holds 17..31, which R25 and R44 (a) say it never does: the spec gives no
  effect. Not reachable from reset. Safe (log 8). -/
  | stackPointerRange
  deriving DecidableEq, Repr

/-- The reasons a step has no meaning. -/
inductive Refusal where
  /-- An instruction whose arm of exec has no meaning yet. Raised by exec only. Safe. -/
  | notModelled (mnemonic : String)
  /-- Raised by an Init event whose arguments are not those of Init: a program longer than 3584 bytes ("not an event of the
  machine at all", R191) or a font that is not 80 bytes (R5, R6). Safe (log 9). -/
  | initArgs
  deriving DecidableEq, Repr

/-- The key-wait state tag `kw` (R28). -/
inductive KeyWait where
  | running
  | awaitingPress
  | awaitingRelease
  deriving DecidableEq, Repr

/-- The fault latch (R30; codes in section 2 of `60_exceptions.md`). -/
inductive FaultCode where
  | none
  | decodeFailure
  | stackOverflow
  | stackUnderflow
  | addressOutOfRange
  | fetchOutOfRange
  deriving DecidableEq, Repr

/-- `fault_info` (R176): "a record of three fields". -/
structure FaultInfo where
  pc : Word
  opcode : Word
  ea : BitVec 17
  deriving DecidableEq, Repr

/-- An event of the host (R11, R202). -/
inductive HostEvent where
  /-- `Step(keys, rnd)`: R170. -/
  | step (keys : BitVec 16) (rnd : Byte)
  /-- `Tick()`: R183. -/
  | tick
  /-- `Init(PROGRAM; FONT, MEM_FILL)`: R190. -/
  | init (args : InitArgs)
  deriving DecidableEq, Repr

/-- Memory: address and byte pairs in canonical form (`Memory.wf`). -/
abbrev Memory := List Host.Cell

/-- The framebuffer: `fb[X][Y]` is the pixel in column `X`, row `Y` (R27); `true` is 1, "set" (R150). -/
abbrev Framebuffer := Vector (Vector Bool 32) 64

/-- The state of the machine: the table that opens `10_state.md`, the input samples of the current Step, and the two fields
of the model's own that stand for the host (`host`, `draws`). -/
structure State where
  /-- `V[0]`..`V[15]` (R20). -/
  v : Vector Byte 16
  /-- The index register `I` (R24). -/
  i : Word
  /-- The program counter (R22). -/
  pc : Word
  /-- The stack pointer, the number of return addresses held (R25). -/
  sp : BitVec 5
  /-- The call stack (R25). -/
  stack : Vector Word 16
  /-- The delay timer (R26). -/
  dt : Byte
  /-- The sound timer (R26). -/
  st : Byte
  /-- The framebuffer (R27). -/
  fb : Framebuffer
  /-- The 4096 bytes of memory (R31). -/
  mem : Memory
  /-- The key-wait tag (R28). -/
  kw : KeyWait
  /-- The `x` field of the `Fx0A` that started the wait (R28). -/
  kwReg : Nibble
  /-- The key captured on press (R28). -/
  kwKey : Nibble
  /-- The most recently fetched instruction word (R29). -/
  ir : Word
  /-- The fault latch (R30). -/
  fault : FaultCode
  /-- What the raising Step recorded (R176). -/
  faultInfo : FaultInfo
  /-- The `keys` sample of the current Step (R38). -/
  keysIn : BitVec 16
  /-- The `rnd` sample of the current Step (R39). -/
  rndIn : Byte
  /-- The model's: events the host has issued and the core has not consumed, oldest first (log 1). -/
  host : List HostEvent
  /-- The model's: the argument of the next free value (log 15). -/
  draws : Nat
  deriving DecidableEq, Repr

/-- The machine after Init with the empty program and the default parameters (R37, R191; log 11). Its memory lists nothing:
an unlisted address reads as the reset contents (`Memory.unlisted`). -/
def State.reset : State where
  v := Vector.replicate 16 0#8
  i := 0#16
  pc := 0x0200#16
  sp := 0#5
  stack := Vector.replicate 16 0#16
  dt := 0#8
  st := 0#8
  fb := Vector.replicate 64 (Vector.replicate 32 false)
  mem := []
  kw := .running
  kwReg := 0#4
  kwKey := 0#4
  ir := 0#16
  fault := .none
  faultInfo := ⟨0#16, 0#16, 0#17⟩
  keysIn := 0#16
  rndIn := 0#8
  host := []
  draws := 0

end Sys2Proof.Machine
end

