-- ==== Sys2Proof/Machine/Memory.lean ====
section
/-! DEFINITION. The 4096 bytes of memory as canonical (address, byte) pairs, and the contents Init gives them (`20_memory.md`). -/

namespace Sys2Proof.Machine

/-! ## Reset contents -/

/-- Glyphs 0 to 7 of the default `FONT` (R33; log 5). -/
def fontLow : List Byte :=
  [0xF0, 0x90, 0x90, 0x90, 0xF0] ++ [0x20, 0x60, 0x20, 0x20, 0x70] ++ [0xF0, 0x10, 0xF0, 0x80, 0xF0] ++
  [0xF0, 0x10, 0xF0, 0x10, 0xF0] ++ [0x90, 0x90, 0xF0, 0x10, 0x10] ++ [0xF0, 0x80, 0xF0, 0x10, 0xF0] ++
  [0xF0, 0x80, 0xF0, 0x90, 0xF0] ++ [0xF0, 0x10, 0x20, 0x40, 0x40]

/-- Glyphs 8 to F of the default `FONT` (R33; log 5). -/
def fontHigh : List Byte :=
  [0xF0, 0x90, 0xF0, 0x90, 0xF0] ++ [0xF0, 0x90, 0xF0, 0x10, 0xF0] ++ [0xF0, 0x90, 0xF0, 0x90, 0x90] ++
  [0xE0, 0x90, 0xE0, 0x90, 0xE0] ++ [0xF0, 0x80, 0x80, 0x80, 0xF0] ++ [0xE0, 0x90, 0x90, 0x90, 0xE0] ++
  [0xF0, 0x80, 0xF0, 0x80, 0xF0] ++ [0xF0, 0x80, 0xF0, 0x80, 0x80]

/-- The default value of the parameter `FONT` (R33; PRESUMED, log 5). -/
def defaultFont : List Byte := fontLow ++ fontHigh

/-- The default value of the parameter `MEM_FILL` (R6; DESIGN CHOICE, log 4). -/
def defaultMemFill : Byte := 0x00#8

/-- What an address the list does not hold reads as: the reset contents, font at `0x000`..`0x04F`, `MEM_FILL` elsewhere (R37, R58). -/
def Memory.unlisted (a : Nat) : Byte :=
  if a < 80 then defaultFont.getD a defaultMemFill else defaultMemFill

/-! ## One byte -/

/-- `mem[a]`. Used only on addresses the decoder of R50 accepts: every access is range-checked first (R56, R57; log 14). -/
def Memory.read : Memory → Nat → Byte
  | [], a => Memory.unlisted a
  | (k, b) :: m, a => if k = a then b else Memory.read m a

/-- `mem[a] <- v` (R9). Writing what an unlisted address reads as removes the entry, so equal memories are equal lists. -/
def Memory.write : Memory → Nat → Byte → Memory
  | [], a, v => if v = Memory.unlisted a then [] else [(a, v)]
  | (k, b) :: m, a, v =>
    if a < k then
      if v = Memory.unlisted a then (k, b) :: m else (a, v) :: (k, b) :: m
    else if a = k then
      if v = Memory.unlisted a then m else (a, v) :: m
    else (k, b) :: Memory.write m a v

/-- The list is canonical from address `lo` up: addresses strictly rising, below 4096, no entry an unlisted address reads as. -/
def Memory.wfFrom : Nat → Memory → Bool
  | _, [] => true
  | lo, (k, b) :: m =>
    decide (lo ≤ k) && decide (k < 4096) && decide (b ≠ Memory.unlisted k) && Memory.wfFrom (k + 1) m

/-- The canonical form of a memory. -/
def Memory.wf (m : Memory) : Bool := Memory.wfFrom 0 m

/-! ## Several bytes -/

/-- The `n` bytes at `a`, `a + 1`, ... (the loops of R146, R152). -/
def Memory.readBytes (m : Memory) (a : Nat) : Nat → List Byte
  | 0 => []
  | n + 1 => m.read a :: Memory.readBytes m (a + 1) n

/-- The bytes stored at `a`, `a + 1`, ... (the loops of R144, R145). -/
def Memory.writeBytes (m : Memory) (a : Nat) : List Byte → Memory
  | [] => m
  | b :: bs => Memory.writeBytes (m.write a b) (a + 1) bs

/-- Two bytes big-endian: `MemRead(addr, 2)` (R9, R52). -/
def Memory.readWord (m : Memory) (a : Nat) : Word := m.read a ++ m.read (a + 1)

/-! ## The image of Init (R190) -/

/-- The canonical memory that reads as `bs` from address `a` up and as the reset contents elsewhere. -/
def Memory.ofBytes : Nat → List Byte → Memory
  | _, [] => []
  | a, b :: bs => if b = Memory.unlisted a then Memory.ofBytes (a + 1) bs else (a, b) :: Memory.ofBytes (a + 1) bs

/-- The 4096 bytes Init leaves: `FONT`, then `MEM_FILL` up to `0x1FF`, then `PROGRAM`, then `MEM_FILL` (R58, R190). -/
def initImage (a : InitArgs) : List Byte :=
  a.font ++ List.replicate 432 a.memFill ++ a.program ++ List.replicate (3584 - a.program.length) a.memFill

end Sys2Proof.Machine
end

