-- ==== Sys2Proof/Machine/Operands.lean ====
section
/-! DEFINITION. The operand forms (R73): registers, immediates, the key number, the addresses formed from `I`, the glyph address,
the decimal digits, the sprite's rows. -/

namespace Sys2Proof.Machine

/-- `V[x]` (R8, R20). -/
def State.reg (s : State) (x : Nibble) : Byte := s.v[x.toNat]

/-- `VF` = `V[0xF]` (R8, R21). -/
abbrev vf : Nibble := 0xF#4

/-- `zext_16(nnn)` (R73). -/
def zext16 (nnn : Addr12) : Word := nnn.setWidth 16

/-- `V[x]` as a 16-bit number, `zext_16(V[x])`. -/
def State.reg16 (s : State) (x : Nibble) : Word := (s.reg x).setWidth 16

/-- The key number an instruction names, `V[x][3:0]` (R109, R110; the spec's decision, log 13). -/
def State.keyNumber (s : State) (x : Nibble) : Nibble := (s.reg x).extractLsb' 0 4

/-- `Key(k)`: bit `k` of the `keys` sample of this Step (R10). -/
def State.key (s : State) (k : Nibble) : Bool := s.keysIn.getLsbD k.toNat

/-- `min (k in 0..15 | Key(k) = 1)` of a `keys` sample; 0 where no key is held (R164 asks only where one is; log 13). -/
def lowestKey (keys : BitVec 16) : Nibble :=
  BitVec.ofNat 4 (((List.range 16).find? fun k => keys.getLsbD k).getD 0)

/-- The effective address `I + k`, a natural number with no reduction (R55). -/
def State.ea (s : State) (k : Nat) : Nat := s.i.toNat + k

/-- An access of `count` consecutive bytes from `I` names an address above 4095 (R56): `count >= 1` and `I + count - 1 > 4095`. -/
def State.accessOutside (s : State) (count : Nat) : Bool :=
  decide (1 ≤ count) && decide (4095 < s.i.toNat + count - 1)

/-- The lowest offending address, `max(I, 4096)`, on 17 bits (R140, R174, R176). -/
def State.offendingAddress (s : State) : BitVec 17 := BitVec.ofNat 17 (max s.i.toNat 4096)

/-- `zext_16(v) * 5`, the address of a font glyph (R143). -/
def glyphAddress (v : Byte) : Word := BitVec.ofNat 16 (v.toNat * 5)

/-- The hundreds, tens and ones digits, one byte each (R144). -/
def bcdDigits (v : Byte) : List Byte :=
  [BitVec.ofNat 8 (v.toNat / 100), BitVec.ofNat 8 (v.toNat / 10 % 10), BitVec.ofNat 8 (v.toNat % 10)]

/-- How many registers `Fx55` and `Fx65` move: `x + 1` (R73). -/
def moveCount (x : Nibble) : Nat := x.toNat + 1

/-- `V[0]`..`V[x]` in order (R145). -/
def State.firstRegs (s : State) (x : Nibble) : List Byte := s.v.toList.take (moveCount x)

/-- The sprite of `Dxyn`: the `n` bytes at `I` (R152). -/
def State.spriteRows (s : State) (n : Nibble) : List Byte := s.mem.readBytes s.i.toNat n.toNat

end Sys2Proof.Machine
end

