-- ==== Sys2Proof/Machine/Flags.lean ====
section
/-! DEFINITION. The flag computations: every value written to `VF` as a flag (R21, R120). -/

namespace Sys2Proof.Machine

/-- A flag as the byte `VF` receives: `0x00` or `0x01` (R21). -/
def flagByte (f : Bool) : Byte := if f then 0x01#8 else 0x00#8

/-- Carry out of `8xy4`: 1 if the unwrapped sum exceeds 255 (R127). -/
def carryOut (a b : Byte) : Bool := decide (255 < a.toNat + b.toNat)

/-- The flag of `8xy5` and `8xy7`: 1 exactly when the minuend is strictly above the subtrahend, unsigned (R128, R130). -/
def strictlyAbove (a b : Byte) : Bool := decide (b.toNat < a.toNat)

/-- The bit `8xy6` shifts out: bit 0 before the shift (R129). -/
def shiftedOutRight (a : Byte) : Bool := a.getLsbD 0

/-- The bit `8xyE` shifts out: bit 7 before the shift (R131). -/
def shiftedOutLeft (a : Byte) : Bool := a.getLsbD 7

/-- A pixel collides: its old value is 1 and the sprite bit is 1 (R154). -/
def pixelCollides (old bit : Bool) : Bool := old && bit

end Sys2Proof.Machine
end

