-- ==== Sys2Proof/Machine/Ops.lean ====
section
/-! DEFINITION. The named operations over the state: register, pc and stack updates, raising a fault, the framebuffer, the
events Tick and Init, the polls of the key wait, and the fetch. -/

namespace Sys2Proof.Machine

/-! ## Registers and the program counter -/

/-- `V[x] <- b`. -/
def State.setReg (s : State) (x : Nibble) (b : Byte) : State := { s with v := s.v.set x.toNat b }

/-- `VF <- flag`, `0x00` or `0x01` (R21). -/
def State.setFlag (s : State) (f : Bool) : State := s.setReg vf (flagByte f)

/-- `pc <- target`. -/
def State.setPc (s : State) (target : Word) : State := { s with pc := target }

/-- `pc <- (pc + 2) mod 65536` (R23, R100 a). -/
def State.advance (s : State) : State := s.setPc (s.pc + 2#16)

/-- `pc <- pc + 4` when the condition holds, else `pc <- pc + 2` (R23, R100 b). -/
def State.skipIf (s : State) (c : Bool) : State := s.setPc (if c then s.pc + 4#16 else s.pc + 2#16)

/-- `I <- a`. -/
def State.setI (s : State) (a : Word) : State := { s with i := a }

/-- `dt <- b`. -/
def State.setDt (s : State) (b : Byte) : State := { s with dt := b }

/-- `st <- b`. -/
def State.setSt (s : State) (b : Byte) : State := { s with st := b }

/-- The bytes stored at `a`, `a + 1`, ... -/
def State.storeBytes (s : State) (a : Nat) (bs : List Byte) : State := { s with mem := s.mem.writeBytes a bs }

/-- `V[i] <- mem[I + i]` for `i` in `0 .. count - 1` (R146). -/
def State.loadFromI (s : State) (count : Nat) : State :=
  { s with v := (List.range count).foldl (fun v k => v.setIfInBounds k (s.mem.read (s.ea k))) s.v }

/-! ## The call stack (R25) -/

/-- `stack[sp] <- a; sp <- sp + 1`, where slot `sp` exists. -/
def State.push (s : State) (a : Word) (h : s.sp.toNat < 16) : State :=
  { s with stack := s.stack.set s.sp.toNat a, sp := s.sp + 1#5 }

/-- `sp <- sp - 1`; the slot keeps its value. -/
def State.pop (s : State) : State := { s with sp := s.sp - 1#5 }

/-! ## Raising a fault (R10, R176, R177) -/

/-- `raise`: the fault latch and its record are written, `pc` still addresses the instruction and nothing else changes; the
fetch has already written `ir`. The record's `pc` is that of the raising Step; a field that is not meaningful for the code
(`none` here) is unspecified, a free value (R176; log 6). There is no handler and no return (R181): only Init leaves (R178). -/
def State.raise (s : State) (code : FaultCode) (opcode : Option Word) (ea : Option (BitVec 17)) : State :=
  { s with
    fault := code
    faultInfo := ⟨s.pc, opcode.getD (Config.unspecifiedOpcode s.draws), ea.getD (Config.unspecifiedEa s.draws)⟩
    draws := s.draws + 1 }

/-- Codes 1 to 3: `pc` and the fetched word are recorded (R171, R172, R173). -/
def State.raiseOpcode (s : State) (code : FaultCode) : State := s.raise code (some s.ir) none

/-- Code 4: the lowest offending address is recorded too (R174). -/
def State.raiseAddress (s : State) : State := s.raise .addressOutOfRange (some s.ir) (some s.offendingAddress)

/-- Code 5: `pc` only (R175). -/
def State.raiseFetch (s : State) : State := s.raise .fetchOutOfRange none none

/-- An instruction that accesses `count` bytes from `I`: it raises when one of them is above 4095, before any access; else it
ends in `done` (R56, R177). -/
def State.withAccess (s : State) (count : Nat) (done : State) : Host.Outcome State Fault Refusal :=
  if s.accessOutside count then .next s.raiseAddress else .next done

/-! ## The framebuffer (R27, R152 to R154) -/

/-- `fb[X][Y]`. -/
def pixel (fb : Framebuffer) (X Y : Nat) (hX : X < 64) (hY : Y < 32) : Bool := fb[X][Y]

/-- `fb[X][Y] <- b`. -/
def setPixel (fb : Framebuffer) (X Y : Nat) (hX : X < 64) (hY : Y < 32) (b : Bool) : Framebuffer :=
  fb.set X (fb[X].set Y b)

/-- One pixel of a sprite: XOR the bit in, and record a collision (R152). The pair is the framebuffer and the collision so far. -/
def drawPixel (p : Framebuffer × Bool) (X Y : Nat) (hX : X < 64) (hY : Y < 32) (bit : Bool) : Framebuffer × Bool :=
  (setPixel p.1 X Y hX hY (pixel p.1 X Y hX hY ^^ bit), p.2 || pixelCollides (pixel p.1 X Y hX hY) bit)

/-- Column `c` of sprite row `r`: bit `7 - c` of the row's byte goes to column `(vx + c) mod 64`, row `(vy + r) mod 32` (R152, R153). -/
def drawColumn (vx vy r : Nat) (b : Byte) (p : Framebuffer × Bool) (c : Nat) : Framebuffer × Bool :=
  drawPixel p ((vx + c) % 64) ((vy + r) % 32) (Nat.mod_lt _ (by decide)) (Nat.mod_lt _ (by decide)) (b.getLsbD (7 - c))

/-- Sprite row `r`: its 8 columns in order. -/
def drawRow (vx vy r : Nat) (b : Byte) (p : Framebuffer × Bool) : Framebuffer × Bool :=
  (List.range 8).foldl (drawColumn vx vy r b) p

/-- The sprite's rows from row `r` down. -/
def drawRows (vx vy : Nat) : Nat → List Byte → Framebuffer × Bool → Framebuffer × Bool
  | _, [], p => p
  | r, b :: bs, p => drawRows vx vy (r + 1) bs (drawRow vx vy r b p)

/-- The whole sprite at `(vx, vy)`: the new framebuffer and the collision. -/
def drawSprite (vx vy : Nat) (rows : List Byte) (fb : Framebuffer) : Framebuffer × Bool :=
  drawRows vx vy 0 rows (fb, false)

/-- All 2048 pixels 0 (R151). -/
def clearFramebuffer : Framebuffer := Vector.replicate 64 (Vector.replicate 32 false)

/-- The framebuffer replaced. -/
def State.setFb (s : State) (fb : Framebuffer) : State := { s with fb := fb }

/-! ## The key wait (R163 to R165) -/

/-- `kw <- AwaitingPress; kw_reg <- x` (R163). -/
def State.enterWait (s : State) (x : Nibble) : State := { s with kw := .awaitingPress, kwReg := x }

/-- A Step in `AwaitingPress`: if a key is held, the lowest-numbered is latched (R164). -/
def State.pollPress (s : State) : State :=
  if s.keysIn ≠ 0#16 then { s with kwKey := lowestKey s.keysIn, kw := .awaitingRelease } else s

/-- A Step in `AwaitingRelease`: if the latched key is not held, the wait resolves (R165). -/
def State.pollRelease (s : State) : State :=
  if s.key s.kwKey = false then
    { (s.setReg s.kwReg (s.kwKey.setWidth 8)).advance with kw := .running }
  else s

/-! ## Tick (R183) -/

/-- A counter decremented by 1 if nonzero. -/
def countDown (b : Byte) : Byte := if b ≠ 0#8 then b - 1#8 else b

/-- `Tick()`: both timers count down unless the machine is Halted; nothing else changes. -/
def State.tick (s : State) : State :=
  if s.fault ≠ .none then s else { s with dt := countDown s.dt, st := countDown s.st }

/-- `n` Ticks in a row, in closed form (`Laws`: one more Tick is `tick` of it), so that a free `n` reaches the timers only. -/
def State.ticks (s : State) (n : Nat) : State :=
  if s.fault ≠ .none then s
  else { s with dt := BitVec.ofNat 8 (s.dt.toNat - n), st := BitVec.ofNat 8 (s.st.toNat - n) }

/-! ## Init (R190 to R192) -/

/-- The state Init leaves: every element at the value of R37, memory as `PROGRAM`, `FONT` and `MEM_FILL` say. Nothing of the
earlier state survives; the host's queue and the free values' counter are the model's and go on. -/
def State.init (s : State) (a : InitArgs) : State :=
  { State.reset with
    mem := Memory.ofBytes 0 (initImage a)
    keysIn := s.keysIn
    rndIn := s.rndIn
    host := s.host
    draws := s.draws }

/-- The Init event: refused unless its arguments are those of Init (R191). -/
def State.initEvent (s : State) (a : InitArgs) : Host.Outcome State Fault Refusal :=
  if a.wf then .next (s.init a) else .refused .initArgs

/-! ## The Step's inputs and fetch (R38, R39, R170) -/

/-- The samples the host presents with a Step. -/
def State.present (s : State) (keys : BitVec 16) (rnd : Byte) : State := { s with keysIn := keys, rndIn := rnd }

/-- The word at `pc`, big-endian (R52); meaningful where `pc <= 4094`. -/
def State.fetchWord (s : State) : Word := s.mem.readWord s.pc.toNat

/-- `ir <- opcode` (R29). -/
def State.latchIr (s : State) (w : Word) : State := { s with ir := w }

/-- The host's next event and the state it finds. From an empty queue the host issues some number of Ticks and then a Step,
all free values (R184; log 1, 2, 3). -/
def State.nextEvent (s : State) : HostEvent × State :=
  match s.host with
  | [] =>
    (.step (Config.keysInput s.draws) (Config.rndInput s.draws),
      { s.ticks (Config.ticksBefore s.draws) with draws := s.draws + 1 })
  | e :: rest => (e, { s with host := rest })

end Sys2Proof.Machine
end

