-- ==== Sys2Proof/Machine/Alu.lean ====
section
/-! DEFINITION. Arithmetic, logic, shift and random instructions (`41_alu.md`). -/

namespace Sys2Proof.Machine

/-- An ALU instruction with no flag: `V[x] <- r`, `pc <- pc + 2` (R120). -/
def State.aluResult (s : State) (x : Nibble) (r : Byte) : State := (s.setReg x r).advance

/-- An ALU instruction with a flag: `V[x] <- r`, then `VF <- flag`, last, `pc <- pc + 2` (R120). Result and flag come from the
pre-state. -/
def State.aluFlagged (s : State) (x : Nibble) (r : Byte) (f : Bool) : State := ((s.setReg x r).setFlag f).advance

/-- `6xkk` LD Vx, kk (R121). -/
def execLdImm (x : Nibble) (kk : Byte) (s : State) : Host.Outcome State Fault Refusal :=
  .next (s.aluResult x kk)

/-- `7xkk` ADD Vx, kk (R122): no flag. -/
def execAddImm (x : Nibble) (kk : Byte) (s : State) : Host.Outcome State Fault Refusal :=
  .next (s.aluResult x (s.reg x + kk))

/-- `8xy0` LD Vx, Vy (R123). -/
def execLdReg (x y : Nibble) (s : State) : Host.Outcome State Fault Refusal :=
  .next (s.aluResult x (s.reg y))

/-- `8xy1` OR Vx, Vy (R124): `VF` is not reset. -/
def execOr (x y : Nibble) (s : State) : Host.Outcome State Fault Refusal :=
  .next (s.aluResult x (s.reg x ||| s.reg y))

/-- `8xy2` AND Vx, Vy (R125). -/
def execAnd (x y : Nibble) (s : State) : Host.Outcome State Fault Refusal :=
  .next (s.aluResult x (s.reg x &&& s.reg y))

/-- `8xy3` XOR Vx, Vy (R126). -/
def execXor (x y : Nibble) (s : State) : Host.Outcome State Fault Refusal :=
  .next (s.aluResult x (s.reg x ^^^ s.reg y))

/-- `8xy4` ADD Vx, Vy (R127): `VF` = carry out. -/
def execAddReg (x y : Nibble) (s : State) : Host.Outcome State Fault Refusal :=
  .next (s.aluFlagged x (s.reg x + s.reg y) (carryOut (s.reg x) (s.reg y)))

/-- `8xy5` SUB Vx, Vy (R128): `VF` = 1 exactly when `Vx > Vy`, strict. -/
def execSub (x y : Nibble) (s : State) : Host.Outcome State Fault Refusal :=
  .next (s.aluFlagged x (s.reg x - s.reg y) (strictlyAbove (s.reg x) (s.reg y)))

/-- `8xy6` SHR Vx (R129): `V[y]` is neither read nor written. -/
def execShr (x _y : Nibble) (s : State) : Host.Outcome State Fault Refusal :=
  .next (s.aluFlagged x (s.reg x >>> 1) (shiftedOutRight (s.reg x)))

/-- `8xy7` SUBN Vx, Vy (R130): `VF` = 1 exactly when `Vy > Vx`, strict. -/
def execSubn (x y : Nibble) (s : State) : Host.Outcome State Fault Refusal :=
  .next (s.aluFlagged x (s.reg y - s.reg x) (strictlyAbove (s.reg y) (s.reg x)))

/-- `8xyE` SHL Vx (R131): `V[y]` is neither read nor written. -/
def execShl (x _y : Nibble) (s : State) : Host.Outcome State Fault Refusal :=
  .next (s.aluFlagged x (s.reg x <<< 1) (shiftedOutLeft (s.reg x)))

/-- `Cxkk` RND Vx, kk (R132): `Rnd()` is the sample presented with this Step. -/
def execRnd (x : Nibble) (kk : Byte) (s : State) : Host.Outcome State Fault Refusal :=
  .next (s.aluResult x (s.rndIn &&& kk))

end Sys2Proof.Machine
end

