-- ==== Sys2Proof/Machine/ControlFlow.lean ====
section
/-! DEFINITION. The control-flow instructions (`40_control_flow.md`): return, jump, call, skip. -/

namespace Sys2Proof.Machine

/-- `00EE` RET (R101). With `sp` above 16, which it never is, no slot is named: log 8. -/
def execRet (s : State) : Host.Outcome State Fault Refusal :=
  if s.sp = 0#5 then .next (s.raiseOpcode .stackUnderflow)
  else if h : s.sp.toNat - 1 < 16 then .next (s.pop.setPc (s.stack[s.sp.toNat - 1] + 2#16))
  else .fault .stackPointerRange

/-- `1nnn` JP nnn (R102). -/
def execJp (nnn : Addr12) (s : State) : Host.Outcome State Fault Refusal :=
  .next (s.setPc (zext16 nnn))

/-- `2nnn` CALL nnn (R103): the address of the CALL itself is pushed. With `sp` above 16, which it never is: log 8. -/
def execCall (nnn : Addr12) (s : State) : Host.Outcome State Fault Refusal :=
  if s.sp = 16#5 then .next (s.raiseOpcode .stackOverflow)
  else if h : s.sp.toNat < 16 then .next ((s.push s.pc h).setPc (zext16 nnn))
  else .fault .stackPointerRange

/-- `3xkk` SE Vx, kk (R104). -/
def execSeImm (x : Nibble) (kk : Byte) (s : State) : Host.Outcome State Fault Refusal :=
  .next (s.skipIf (s.reg x == kk))

/-- `4xkk` SNE Vx, kk (R105). -/
def execSneImm (x : Nibble) (kk : Byte) (s : State) : Host.Outcome State Fault Refusal :=
  .next (s.skipIf (s.reg x != kk))

/-- `5xy0` SE Vx, Vy (R106). -/
def execSeReg (x y : Nibble) (s : State) : Host.Outcome State Fault Refusal :=
  .next (s.skipIf (s.reg x == s.reg y))

/-- `9xy0` SNE Vx, Vy (R107). -/
def execSneReg (x y : Nibble) (s : State) : Host.Outcome State Fault Refusal :=
  .next (s.skipIf (s.reg x != s.reg y))

/-- `Bnnn` JP V0, nnn (R108): always `V[0]`, no reduction to 12 bits. -/
def execJpV0 (nnn : Addr12) (s : State) : Host.Outcome State Fault Refusal :=
  .next (s.setPc (zext16 nnn + s.reg16 0#4))

/-- `Ex9E` SKP Vx (R109). -/
def execSkp (x : Nibble) (s : State) : Host.Outcome State Fault Refusal :=
  .next (s.skipIf (s.key (s.keyNumber x)))

/-- `ExA1` SKNP Vx (R110). -/
def execSknp (x : Nibble) (s : State) : Host.Outcome State Fault Refusal :=
  .next (s.skipIf (!s.key (s.keyNumber x)))

end Sys2Proof.Machine
end

