-- ==== Sys2Proof/Machine/Display.lean ====
section
/-! DEFINITION. The display instructions (`43_display.md`). -/

namespace Sys2Proof.Machine

/-- `00E0` CLS (R151). -/
def execCls (s : State) : Host.Outcome State Fault Refusal :=
  .next (s.setFb clearFramebuffer).advance

/-- The draw of `Dxyn` on the pre-state: position and sprite are read before `VF` is written (R152). -/
def State.drawn (s : State) (x y n : Nibble) : Framebuffer × Bool :=
  drawSprite (s.reg x).toNat (s.reg y).toNat (s.spriteRows n) s.fb

/-- `Dxyn` DRW Vx, Vy, n (R152): `VF` = collision, written once, last. -/
def execDrw (x y n : Nibble) (s : State) : Host.Outcome State Fault Refusal :=
  s.withAccess n.toNat ((s.setFb (s.drawn x y n).1).setFlag (s.drawn x y n).2).advance

end Sys2Proof.Machine
end

