-- ==== Sys2Proof/Machine/IndexMemory.lean ====
section
/-! DEFINITION. The index register and the instructions that move data through it (`42_index_memory.md`). None changes `I` but
the first three (R140). -/

namespace Sys2Proof.Machine

/-- `Annn` LD I, nnn (R141). -/
def execLdI (nnn : Addr12) (s : State) : Host.Outcome State Fault Refusal :=
  .next (s.setI (zext16 nnn)).advance

/-- `Fx1E` ADD I, Vx (R142): on 16 bits, no flag. -/
def execAddI (x : Nibble) (s : State) : Host.Outcome State Fault Refusal :=
  .next (s.setI (s.i + s.reg16 x)).advance

/-- `Fx29` LD F, Vx (R143): the whole byte times 5. -/
def execLdF (x : Nibble) (s : State) : Host.Outcome State Fault Refusal :=
  .next (s.setI (glyphAddress (s.reg x))).advance

/-- `Fx33` BCD Vx (R144). -/
def execBcd (x : Nibble) (s : State) : Host.Outcome State Fault Refusal :=
  s.withAccess 3 (s.storeBytes (s.ea 0) (bcdDigits (s.reg x))).advance

/-- `Fx55` LD [I], Vx (R145): `V[0]`..`V[x]` to `mem[I]`..`mem[I + x]`. -/
def execStoreRegs (x : Nibble) (s : State) : Host.Outcome State Fault Refusal :=
  s.withAccess (moveCount x) (s.storeBytes (s.ea 0) (s.firstRegs x)).advance

/-- `Fx65` LD Vx, [I] (R146): `V[0]`..`V[x]` from `mem[I]`..`mem[I + x]`. -/
def execLoadRegs (x : Nibble) (s : State) : Host.Outcome State Fault Refusal :=
  s.withAccess (moveCount x) (s.loadFromI (moveCount x)).advance

end Sys2Proof.Machine
end

