-- ==== Sys2Proof/Machine/KeypadTimers.lean ====
section
/-! DEFINITION. Timer access and the instruction that enters the key wait (`44_keypad_timers.md`). -/

namespace Sys2Proof.Machine

/-- `Fx07` LD Vx, DT (R160). -/
def execLdVxDt (x : Nibble) (s : State) : Host.Outcome State Fault Refusal :=
  .next (s.setReg x s.dt).advance

/-- `Fx0A` LD Vx, K (R163): the Step that executes it only enters the wait; `pc` stays, `keys` is not sampled. The rest of its
effect is `State.pollPress` and `State.pollRelease`. -/
def execLdVxK (x : Nibble) (s : State) : Host.Outcome State Fault Refusal :=
  .next (s.enterWait x)

/-- `Fx15` LD DT, Vx (R161). -/
def execLdDtVx (x : Nibble) (s : State) : Host.Outcome State Fault Refusal :=
  .next (s.setDt (s.reg x)).advance

/-- `Fx18` LD ST, Vx (R162). -/
def execLdStVx (x : Nibble) (s : State) : Host.Outcome State Fault Refusal :=
  .next (s.setSt (s.reg x)).advance

end Sys2Proof.Machine
end

