-- ==== Sys2Proof/Machine/Sequencer.lean ====
section
/-! DEFINITION. The Step sequencer (R170) and the host's events (R11). -/

namespace Sys2Proof.Machine

/-- Exits 4 to 7 of R170: a Running Step fetches, decodes and executes one instruction, or raises. -/
def runInstr (s : State) : Host.Outcome State Fault Refusal :=
  if 4094 < s.pc.toNat then .next s.raiseFetch
  else
    match decodeWord s.fetchWord with
    | none => .next ((s.latchIr s.fetchWord).raiseOpcode .decodeFailure)
    | some i => exec i (s.latchIr s.fetchWord)

/-- `Step(keys, rnd)` with its samples presented: the tests of R170 in their order. -/
def runStep (s : State) : Host.Outcome State Fault Refusal :=
  if s.fault ≠ .none then .next s
  else
    match s.kw with
    | .awaitingPress => .next s.pollPress
    | .awaitingRelease => .next s.pollRelease
    | .running => runInstr s

/-- One event of the host on the state it finds. -/
def runEvent (e : HostEvent) (s : State) : Host.Outcome State Fault Refusal :=
  match e with
  | .step keys rnd => runStep (s.present keys rnd)
  | .tick => .next s.tick
  | .init args => s.initEvent args

/-- The `host` queue such that the next event is a Step: a queued Tick or Init is preceded by a Step with free samples. -/
def stepFirst (queue : List HostEvent) (n : Nat) : List HostEvent :=
  match queue with
  | [] => []
  | .step keys rnd :: rest => .step keys rnd :: rest
  | e :: rest => .step (Config.keysInput n) (Config.rndInput n) :: e :: rest

/-- `pc` where an instruction can be fetched there, else the entry point (R57, R58). -/
def fetchablePc (pc : Word) : Word := if 4094 < pc.toNat then 0x0200#16 else pc

/-- Running, not Halted, `pc` fetchable, the word at `pc`, the next event a Step (log 10). -/
def State.withWordAtPc (s : State) (w : Word) : State :=
  { s with
    fault := .none
    kw := .running
    pc := fetchablePc s.pc
    mem := s.mem.writeBytes (fetchablePc s.pc).toNat [highByte w, lowByte w]
    host := stepFirst s.host s.draws
    draws := s.draws + 1 }

end Sys2Proof.Machine
end

