-- ==== Sys2Proof/Machine/Step.lean ====
section
/-! DEFINITION. One step of the machine: the host's next event, and the host's way to place a table word. -/

namespace Sys2Proof.Machine

/-- One step: the next event of the host, taken from the queue or free (R11; log 1). -/
def step (s : State) : Host.Outcome State Fault Refusal :=
  runEvent s.nextEvent.1 s.nextEvent.2

/-- `s` with the instruction of a table word stored where the next step fetches (log 10, 18). -/
def State.withFetchWord (s : State) (nbits w : Nat) : State := s.withWordAtPc (tableWord nbits w)

end Sys2Proof.Machine
end

