-- ==== Sys2Proof/Safety.lean ====
section
/-! DEFINITION. The terms claims are stated in: what an instruction may write (R45), what a fault leaves (R176, R177), and the
invariant of the machine (R44). -/

namespace Sys2Proof.Machine

/-- What an instruction may write beside `pc`: the W entries of R45's table. Everything not named stays as it was. -/
structure Writes where
  /-- registers, `VF` among them -/
  regs : List Nibble := []
  /-- `I` -/
  index : Bool := false
  /-- `sp` and the slots -/
  stack : Bool := false
  /-- `dt` -/
  delay : Bool := false
  /-- `st` -/
  sound : Bool := false
  /-- the framebuffer -/
  screen : Bool := false
  /-- `kw`, `kw_reg` -/
  wait : Bool := false
  /-- the addresses stored to -/
  stored : List Nat := []
  deriving DecidableEq, Repr

/-- The frame: `t` differs from `s` in `pc` and in what `w` names only. Memory is compared through the read of one byte. -/
structure Unchanged (w : Writes) (s t : State) : Prop where
  regs : ∀ y, y ∉ w.regs → t.reg y = s.reg y
  index : w.index = false → t.i = s.i
  stack : w.stack = false → t.sp = s.sp ∧ t.stack = s.stack
  delay : w.delay = false → t.dt = s.dt
  sound : w.sound = false → t.st = s.st
  screen : w.screen = false → t.fb = s.fb
  wait : w.wait = false → t.kw = s.kw ∧ t.kwReg = s.kwReg
  kwKey : t.kwKey = s.kwKey
  memory : ∀ a, a ∉ w.stored → t.mem.read a = s.mem.read a
  ir : t.ir = s.ir
  latch : t.fault = s.fault ∧ t.faultInfo = s.faultInfo
  inputs : t.keysIn = s.keysIn ∧ t.rndIn = s.rndIn
  host : t.host = s.host ∧ t.draws = s.draws

/-- `t` is `s` after a raise of `code` (R176, R177): the latch, its record with the `pc` of the raising Step, nothing else. The
free values' counter is the model's. -/
def Raised (code : FaultCode) (s t : State) : Prop :=
  t = { s with fault := code, faultInfo := t.faultInfo, draws := t.draws } ∧ t.faultInfo.pc = s.pc

/-- The architectural state of two states is the same: they differ in the input samples and the model's own fields at most. -/
def SameArch (s t : State) : Prop :=
  t = { s with keysIn := t.keysIn, rndIn := t.rndIn, host := t.host, draws := t.draws }

/-- How many consecutive bytes from `I` an instruction reads or writes as data (R51, R56). -/
def dataCount : Instr → Nat
  | .drw _ _ n => n.toNat
  | .bcd _ => 3
  | .storeRegs x | .loadRegs x => x.toNat + 1
  | .cls | .ret | .jp _ | .call _ | .seImm _ _ | .sneImm _ _ | .seReg _ _ | .ldImm _ _ | .addImm _ _ | .ldReg _ _ | .orReg _ _
  | .andReg _ _ | .xorReg _ _ | .addReg _ _ | .sub _ _ | .shr _ _ | .subn _ _ | .shl _ _ | .sneReg _ _ | .ldI _ | .jpV0 _
  | .rnd _ _ | .skp _ | .sknp _ | .ldVxDt _ | .ldVxK _ | .ldDtVx _ | .ldStVx _ | .addI _ | .ldF _ => 0

/-- The first `n` registers, `V[0]`..`V[n - 1]`. -/
def registersBelow (n : Nat) : List Nibble := (List.range n).map (BitVec.ofNat 4)

/-- The W entries of R45's table for an instruction, `pc` apart. -/
def writesOf (s : State) : Instr → Writes
  | .cls => { screen := true }
  | .ret | .call _ => { stack := true }
  | .jp _ | .jpV0 _ | .seImm _ _ | .sneImm _ _ | .seReg _ _ | .sneReg _ _ | .skp _ | .sknp _ => {}
  | .ldImm x _ | .addImm x _ | .ldReg x _ | .orReg x _ | .andReg x _ | .xorReg x _ | .rnd x _ | .ldVxDt x => { regs := [x] }
  | .addReg x _ | .sub x _ | .shr x _ | .subn x _ | .shl x _ => { regs := [x, vf] }
  | .ldI _ | .addI _ | .ldF _ => { index := true }
  | .drw _ _ _ => { regs := [vf], screen := true }
  | .ldVxK _ => { wait := true }
  | .ldDtVx _ => { delay := true }
  | .ldStVx _ => { sound := true }
  | .bcd _ => { stored := [s.ea 0, s.ea 1, s.ea 2] }
  | .storeRegs x => { stored := (List.range (x.toNat + 1)).map s.ea }
  | .loadRegs x => { regs := registersBelow (x.toNat + 1) }

/-- Where an instruction that completes leaves `pc`: the complete contract of R100. -/
def PcContract (i : Instr) (s t : State) : Prop :=
  match i with
  | .seImm x kk => t.pc = if s.reg x = kk then s.pc + 4 else s.pc + 2
  | .sneImm x kk => t.pc = if s.reg x ≠ kk then s.pc + 4 else s.pc + 2
  | .seReg x y => t.pc = if s.reg x = s.reg y then s.pc + 4 else s.pc + 2
  | .sneReg x y => t.pc = if s.reg x ≠ s.reg y then s.pc + 4 else s.pc + 2
  | .skp x => t.pc = if s.keysIn.getLsbD ((s.reg x).toNat % 16) = true then s.pc + 4 else s.pc + 2
  | .sknp x => t.pc = if s.keysIn.getLsbD ((s.reg x).toNat % 16) = false then s.pc + 4 else s.pc + 2
  | .jp nnn | .call nnn => t.pc.toNat = nnn.toNat
  | .jpV0 nnn => t.pc.toNat = nnn.toNat + (s.reg 0).toNat
  | .ret => ∃ (j : Nat) (h : j < 16), j + 1 = s.sp.toNat ∧ t.pc = s.stack[j] + 2
  | .ldVxK _ => t.pc = s.pc
  | .cls | .ldImm _ _ | .addImm _ _ | .ldReg _ _ | .orReg _ _ | .andReg _ _ | .xorReg _ _ | .addReg _ _ | .sub _ _ | .shr _ _
  | .subn _ _ | .shl _ _ | .ldI _ | .rnd _ _ | .drw _ _ _ | .ldVxDt _ | .ldDtVx _ | .ldStVx _ | .addI _ | .ldF _ | .bcd _
  | .storeRegs _ | .loadRegs _ => t.pc = s.pc + 2

/-- R77: the illegal words, exactly. -/
def IllegalWord (w : Word) : Prop :=
  (fieldOp w = 0x0#4 ∧ w ≠ 0x00E0#16 ∧ w ≠ 0x00EE#16) ∨
  ((fieldOp w = 0x5#4 ∨ fieldOp w = 0x9#4) ∧ fieldN w ≠ 0#4) ∨
  (fieldOp w = 0x8#4 ∧ fieldN w ∈ [0x8#4, 0x9#4, 0xA#4, 0xB#4, 0xC#4, 0xD#4, 0xF#4]) ∨
  (fieldOp w = 0xE#4 ∧ fieldKK w ∉ [0x9E#8, 0xA1#8]) ∨
  (fieldOp w = 0xF#4 ∧ fieldKK w ∉ [0x07#8, 0x0A#8, 0x15#8, 0x18#8, 0x1E#8, 0x29#8, 0x33#8, 0x55#8, 0x65#8])

/-- The state an instruction executed by a Step event finds: the event consumed, its samples presented, `ir` the fetched word. -/
def fetched (s : State) (keys : BitVec 16) (rnd : Byte) (rest : List HostEvent) : State :=
  { s with host := rest, keysIn := keys, rndIn := rnd, ir := s.mem.read s.pc.toNat ++ s.mem.read (s.pc.toNat + 1) }

/-- The invariant of every state a run reaches (R44 a, b, d; R23; R166 f), with the canonical form of memory. -/
structure Inv (s : State) : Prop where
  /-- Memory is in canonical form. -/
  memory : s.mem.wf = true
  /-- R44 (a). -/
  depth : s.sp.toNat ≤ 16
  /-- R44 (b): a held return address is that of a CALL that was fetched. -/
  slots : ∀ (j : Nat) (h : j < 16), j < s.sp.toNat → (s.stack[j]).toNat ≤ 4094
  /-- R23: the largest value `pc` can take is `0x10FE`. -/
  pcBound : s.pc.toNat ≤ 0x10FE
  /-- R44 (d), R166 (f): during a wait no fault is latched and `pc` is at the `Fx0A` with `x = kw_reg`. -/
  waiting : s.kw ≠ .running →
    s.fault = .none ∧ s.pc.toNat ≤ 4094 ∧ decodeWord (s.mem.readWord s.pc.toNat) = some (.ldVxK s.kwReg)

/-- Pixel `(X, Y)` is in the sprite of `rows` at `(vx, vy)` and its sprite bit is 1 (R152, R153): its column is `vx + c`, its row
`vy + r`, modulo 64 and 32, for some column `c < 8` and row `r` of the sprite whose bit `7 - c` is 1. -/
def SpriteBit (vx vy : Nat) (rows : List Byte) (X Y : Nat) : Prop :=
  ∃ (r : Nat) (h : r < rows.length) (c : Nat), c < 8 ∧ X = (vx + c) % 64 ∧ Y = (vy + r) % 32 ∧ (rows[r]).getLsbD (7 - c) = true

end Sys2Proof.Machine
end

