-- ==== Sys2Proof/Certificates/Slice0/Obligations.lean ====
section
/-! DEFINITION. The statements for the provers, from the numbered rules of the spec. -/

open Sys2Proof Sys2Proof.Machine

/-! ## Encoding (`30_encoding.md`) -/

/-- R70, R71, R74: every well-formed instruction's word, and its two bytes followed by anything, decode to it. -/
def Obligations.DecodeOfEncodeIsTheInstruction : Prop :=
  ∀ (i : Instr) (rest : List Byte), i.wf = true →
    decodeWord (encode i) = some i ∧ decode (encodeBytes i ++ rest) = .ok (i, rest)

/-- R76, R78: a word that decodes is the encoding of what it decodes to: no legal encoding has a bit the instruction drops. -/
def Obligations.EncodeOfDecodeIsTheWord : Prop :=
  ∀ (w : Word) (i : Instr), decodeWord w = some i → encode i = w

/-- R74: a word is an instruction of a row exactly when `w & mask = match`, for the 34 rows. -/
def Obligations.DecoderAgreesWithTheOpcodeMap : Prop :=
  opcodeRows.length = 34 ∧
  (∀ (w : Word) (r : Row), r ∈ opcodeRows → (r.covers w = true ↔ ∃ i, decodeWord w = some i ∧ i.row = r)) ∧
  (∀ w : Word, decodeWord w = none ↔ ∀ r ∈ opcodeRows, r.covers w = false)

/-- R76: the 34 patterns are pairwise disjoint. -/
def Obligations.OpcodePatternsArePairwiseDisjoint : Prop :=
  opcodeRows.Pairwise fun r r' => ∀ w : Word, ¬ (r.covers w = true ∧ r'.covers w = true)

/-- R77: the words that decode to nothing are exactly the listed ones (strict matching is the spec's decision D8, log 21). -/
def Obligations.UndecodedWordsAreTheIllegalOnes : Prop :=
  ∀ w : Word, decodeWord w = none ↔ IllegalWord w

/-- R74, `95_test_vectors.md`: seven words that cover the six formats, written out, decode to what they stand for; an eighth, `0x5121`,
decodes to nothing, which rests on the spec's decision D8 (strict matching, log 21). -/
def Obligations.SampleWordsDecode : Prop :=
  decodeWord 0x00E0#16 = some .cls ∧ decodeWord 0x00EE#16 = some .ret ∧ decodeWord 0x1ABC#16 = some (.jp 0xABC#12) ∧
  decodeWord 0x8F1E#16 = some (.shl 0xF#4 0x1#4) ∧ decodeWord 0x6A7F#16 = some (.ldImm 0xA#4 0x7F#8) ∧
  decodeWord 0xD123#16 = some (.drw 0x1#4 0x2#4 0x3#4) ∧ decodeWord 0xF365#16 = some (.loadRegs 0x3#4) ∧
  decodeWord 0x5121#16 = none

/-! ## Control flow (`40_control_flow.md`) -/

/-- R101 (the underflow fault is the spec's decision D4, log 7): RET pops the top slot and goes to it plus 2; with nothing held it raises. -/
def Obligations.RetPopsOrUnderflows : Prop :=
  ∀ s : State, decodeWord 0x00EE#16 = some .ret ∧
    (s.sp.toNat = 0 → ∃ t, exec .ret s = .next t ∧ Raised .stackUnderflow s t ∧ t.faultInfo.opcode = s.ir) ∧
    (∀ (j : Nat) (h : j < 16), s.sp.toNat = j + 1 →
      ∃ t, exec .ret s = .next t ∧ t.sp.toNat = j ∧ t.stack = s.stack ∧
        t.pc.toNat = ((s.stack[j]).toNat + 2) % 65536 ∧ Unchanged { stack := true } s t)

/-- R102: JP goes to `nnn`; a jump to itself changes nothing. -/
def Obligations.JumpGoesToItsTarget : Prop :=
  ∀ (s : State) (nnn : Addr12), decodeWord (wordNNN 0x1 nnn) = some (.jp nnn) ∧
    ∃ t, exec (.jp nnn) s = .next t ∧ t.pc.toNat = nnn.toNat ∧ Unchanged {} s t ∧ (nnn.toNat = s.pc.toNat → t = s)

/-- R103 (the overflow fault is the spec's decision D4, log 7): CALL pushes its own address; with 16 held it raises. -/
def Obligations.CallPushesOrOverflows : Prop :=
  ∀ (s : State) (nnn : Addr12), decodeWord (wordNNN 0x2 nnn) = some (.call nnn) ∧
    (s.sp.toNat = 16 → ∃ t, exec (.call nnn) s = .next t ∧ Raised .stackOverflow s t ∧ t.faultInfo.opcode = s.ir) ∧
    (∀ h : s.sp.toNat < 16, ∃ t, exec (.call nnn) s = .next t ∧ t.sp.toNat = s.sp.toNat + 1 ∧
      t.stack[s.sp.toNat] = s.pc ∧ (∀ (j : Nat) (hj : j < 16), j ≠ s.sp.toNat → t.stack[j] = s.stack[j]) ∧
      t.pc.toNat = nnn.toNat ∧ Unchanged { stack := true } s t)

/-- The model's choice, log 8: in a state whose `sp` holds 17..31, which R25 says it never does, RET and CALL stop by name. -/
def Obligations.StackPointerAboveSixteenStops : Prop :=
  ∀ (s : State) (nnn : Addr12), 16 < s.sp.toNat →
    exec .ret s = .fault .stackPointerRange ∧ exec (.call nnn) s = .fault .stackPointerRange

/-- R104, R105: SE and SNE with a constant; exactly one of the two skips. -/
def Obligations.ConstantSkipsAdvanceByTwoOrFour : Prop :=
  ∀ (s : State) (x : Nibble) (kk : Byte),
    decodeWord (wordXKK 0x3 x kk) = some (.seImm x kk) ∧ decodeWord (wordXKK 0x4 x kk) = some (.sneImm x kk) ∧
    ∃ t u, exec (.seImm x kk) s = .next t ∧ exec (.sneImm x kk) s = .next u ∧
      t.pc.toNat = (s.pc.toNat + if s.reg x = kk then 4 else 2) % 65536 ∧
      u.pc.toNat = (s.pc.toNat + if s.reg x = kk then 2 else 4) % 65536 ∧ Unchanged {} s t ∧ Unchanged {} s u

/-- R106, R107: SE and SNE of two registers; with `x = y` the one always skips, the other never. That `5xyn` and `9xyn` with `n` not 0
do not decode rests on the spec's decision D8 (R77, log 21). -/
def Obligations.RegisterSkipsAdvanceByTwoOrFour : Prop :=
  ∀ (s : State) (x y : Nibble),
    decodeWord (wordXYN 0x5 x y 0x0) = some (.seReg x y) ∧ decodeWord (wordXYN 0x9 x y 0x0) = some (.sneReg x y) ∧
    (∀ n : Nibble, n ≠ 0 → decodeWord (wordXYN 0x5 x y n) = none ∧ decodeWord (wordXYN 0x9 x y n) = none) ∧
    ∃ t u, exec (.seReg x y) s = .next t ∧ exec (.sneReg x y) s = .next u ∧
      t.pc.toNat = (s.pc.toNat + if s.reg x = s.reg y then 4 else 2) % 65536 ∧
      u.pc.toNat = (s.pc.toNat + if s.reg x = s.reg y then 2 else 4) % 65536 ∧ Unchanged {} s t ∧ Unchanged {} s u

/-- R108: JP V0 goes to `nnn + V[0]`, not reduced to 12 bits. -/
def Obligations.IndexedJumpAddsRegisterZero : Prop :=
  ∀ (s : State) (nnn : Addr12), decodeWord (wordNNN 0xB nnn) = some (.jpV0 nnn) ∧
    ∃ t, exec (.jpV0 nnn) s = .next t ∧ t.pc.toNat = nnn.toNat + (s.reg 0x0).toNat ∧ t.pc.toNat ≤ 0x10FE ∧ Unchanged {} s t

/-- R109, R110: SKP and SKNP test one bit of this Step's `keys` sample; that it is the bit the low nibble of `V[x]` names is the
spec's decision D9 (log 13). -/
def Obligations.KeySkipsTestTheSampledKey : Prop :=
  ∀ (s : State) (x : Nibble),
    decodeWord (wordXKK 0xE x 0x9E) = some (.skp x) ∧ decodeWord (wordXKK 0xE x 0xA1) = some (.sknp x) ∧
    ∃ t u, exec (.skp x) s = .next t ∧ exec (.sknp x) s = .next u ∧
      t.pc.toNat = (s.pc.toNat + if s.keysIn.getLsbD ((s.reg x).toNat % 16) = true then 4 else 2) % 65536 ∧
      u.pc.toNat = (s.pc.toNat + if s.keysIn.getLsbD ((s.reg x).toNat % 16) = true then 2 else 4) % 65536 ∧
      Unchanged {} s t ∧ Unchanged {} s u

/-! ## Arithmetic, logic, shift, random (`41_alu.md`) -/

/-- R121, R122: LD and ADD of a constant; the sum wraps and no flag is written. -/
def Obligations.ConstantLoadAndAddWriteOneRegister : Prop :=
  ∀ (s : State) (x : Nibble) (kk : Byte),
    decodeWord (wordXKK 0x6 x kk) = some (.ldImm x kk) ∧ decodeWord (wordXKK 0x7 x kk) = some (.addImm x kk) ∧
    ∃ t u, exec (.ldImm x kk) s = .next t ∧ exec (.addImm x kk) s = .next u ∧
      t.reg x = kk ∧ (u.reg x).toNat = ((s.reg x).toNat + kk.toNat) % 256 ∧
      t.pc.toNat = (s.pc.toNat + 2) % 65536 ∧ u.pc.toNat = (s.pc.toNat + 2) % 65536 ∧
      Unchanged { regs := [x] } s t ∧ Unchanged { regs := [x] } s u

/-- R123: LD Vx, Vy copies; with `x = y` only `pc` changes. -/
def Obligations.RegisterCopyWritesOneRegister : Prop :=
  ∀ (s : State) (x y : Nibble), decodeWord (wordXYN 0x8 x y 0x0) = some (.ldReg x y) ∧
    ∃ t, exec (.ldReg x y) s = .next t ∧ t.reg x = s.reg y ∧ t.pc.toNat = (s.pc.toNat + 2) % 65536 ∧
      Unchanged { regs := [x] } s t ∧ (x = y → Unchanged {} s t)

/-- R124, R125, R126: bit by bit; that `VF` is left alone when `x` is not `0xF` is the spec's decision D18 (log 22). -/
def Obligations.LogicWorksBitwiseAndSetsNoFlag : Prop :=
  ∀ (s : State) (x y : Nibble),
    decodeWord (wordXYN 0x8 x y 0x1) = some (.orReg x y) ∧ decodeWord (wordXYN 0x8 x y 0x2) = some (.andReg x y) ∧
    decodeWord (wordXYN 0x8 x y 0x3) = some (.xorReg x y) ∧
    ∃ t u v, exec (.orReg x y) s = .next t ∧ exec (.andReg x y) s = .next u ∧ exec (.xorReg x y) s = .next v ∧
      (∀ k, k < 8 → (t.reg x).getLsbD k = ((s.reg x).getLsbD k || (s.reg y).getLsbD k) ∧
        (u.reg x).getLsbD k = ((s.reg x).getLsbD k && (s.reg y).getLsbD k) ∧
        (v.reg x).getLsbD k = ((s.reg x).getLsbD k ^^ (s.reg y).getLsbD k)) ∧
      t.pc.toNat = (s.pc.toNat + 2) % 65536 ∧ u.pc.toNat = (s.pc.toNat + 2) % 65536 ∧ v.pc.toNat = (s.pc.toNat + 2) % 65536 ∧
      Unchanged { regs := [x] } s t ∧ Unchanged { regs := [x] } s u ∧ Unchanged { regs := [x] } s v

/-- R127: ADD Vx, Vy; the carry is written last, so with `x = 0xF` it is what `VF` holds. -/
def Obligations.AddSetsSumAndCarry : Prop :=
  ∀ (s : State) (x y : Nibble), decodeWord (wordXYN 0x8 x y 0x4) = some (.addReg x y) ∧
    ∃ t, exec (.addReg x y) s = .next t ∧
      (x ≠ vf → (t.reg x).toNat = ((s.reg x).toNat + (s.reg y).toNat) % 256) ∧
      t.reg vf = (if 255 < (s.reg x).toNat + (s.reg y).toNat then 1 else 0) ∧
      t.pc.toNat = (s.pc.toNat + 2) % 65536 ∧ Unchanged { regs := [x, vf] } s t

/-- R128, R130: SUB and SUBN; the flag is the strict comparison of the operands, written last. -/
def Obligations.SubtractSetsDifferenceAndStrictFlag : Prop :=
  ∀ (s : State) (x y : Nibble),
    decodeWord (wordXYN 0x8 x y 0x5) = some (.sub x y) ∧ decodeWord (wordXYN 0x8 x y 0x7) = some (.subn x y) ∧
    ∃ t u, exec (.sub x y) s = .next t ∧ exec (.subn x y) s = .next u ∧
      (x ≠ vf → (t.reg x).toNat = ((s.reg x).toNat + 256 - (s.reg y).toNat) % 256 ∧
        (u.reg x).toNat = ((s.reg y).toNat + 256 - (s.reg x).toNat) % 256) ∧
      t.reg vf = (if (s.reg y).toNat < (s.reg x).toNat then 1 else 0) ∧
      u.reg vf = (if (s.reg x).toNat < (s.reg y).toNat then 1 else 0) ∧
      t.pc.toNat = (s.pc.toNat + 2) % 65536 ∧ u.pc.toNat = (s.pc.toNat + 2) % 65536 ∧
      Unchanged { regs := [x, vf] } s t ∧ Unchanged { regs := [x, vf] } s u

/-- R129, R131: SHR and SHL by one; the flag is the bit shifted out. That `V[y]` is unused is the spec's decision D18 (log 22), here: the
result is the same for every `y`. -/
def Obligations.ShiftsMoveOneBitIntoTheFlag : Prop :=
  ∀ (s : State) (x y : Nibble),
    decodeWord (wordXYN 0x8 x y 0x6) = some (.shr x y) ∧ decodeWord (wordXYN 0x8 x y 0xE) = some (.shl x y) ∧
    ∃ t u, (∀ y' : Nibble, exec (.shr x y') s = .next t ∧ exec (.shl x y') s = .next u) ∧
      (x ≠ vf → (t.reg x).toNat = (s.reg x).toNat / 2 ∧ (u.reg x).toNat = 2 * (s.reg x).toNat % 256) ∧
      (t.reg vf).toNat = (s.reg x).toNat % 2 ∧ (u.reg vf).toNat = (s.reg x).toNat / 128 ∧
      t.pc.toNat = (s.pc.toNat + 2) % 65536 ∧ u.pc.toNat = (s.pc.toNat + 2) % 65536 ∧
      Unchanged { regs := [x, vf] } s t ∧ Unchanged { regs := [x, vf] } s u

/-- R132, for every sample (that `rnd` is a free input of the Step is the spec's decision D12, log 2): the sample under the mask. -/
def Obligations.RandomByteIsTheSampleUnderTheMask : Prop :=
  ∀ (s : State) (x : Nibble) (kk : Byte), decodeWord (wordXKK 0xC x kk) = some (.rnd x kk) ∧
    ∃ t, exec (.rnd x kk) s = .next t ∧ (∀ k, k < 8 → (t.reg x).getLsbD k = (s.rndIn.getLsbD k && kk.getLsbD k)) ∧
      (kk = 0x00 → t.reg x = 0) ∧ (kk = 0xFF → t.reg x = s.rndIn) ∧
      t.pc.toNat = (s.pc.toNat + 2) % 65536 ∧ Unchanged { regs := [x] } s t

/-! ## Index register and memory (`42_index_memory.md`) -/

/-- R141, R143: LD I loads the address, LD F five times the whole byte. -/
def Obligations.IndexLoadsSetTheIndex : Prop :=
  ∀ (s : State) (nnn : Addr12) (x : Nibble),
    decodeWord (wordNNN 0xA nnn) = some (.ldI nnn) ∧ decodeWord (wordXKK 0xF x 0x29) = some (.ldF x) ∧
    ∃ t u, exec (.ldI nnn) s = .next t ∧ exec (.ldF x) s = .next u ∧
      t.i.toNat = nnn.toNat ∧ u.i.toNat = 5 * (s.reg x).toNat ∧
      t.pc.toNat = (s.pc.toNat + 2) % 65536 ∧ u.pc.toNat = (s.pc.toNat + 2) % 65536 ∧
      Unchanged { index := true } s t ∧ Unchanged { index := true } s u

/-- R142: ADD I is on 16 bits; that `VF` is not written is also the spec's decision D18 (log 22). -/
def Obligations.IndexAddWrapsAtSixteenBits : Prop :=
  ∀ (s : State) (x : Nibble), decodeWord (wordXKK 0xF x 0x1E) = some (.addI x) ∧
    ∃ t, exec (.addI x) s = .next t ∧ t.i.toNat = (s.i.toNat + (s.reg x).toNat) % 65536 ∧
      t.pc.toNat = (s.pc.toNat + 2) % 65536 ∧ Unchanged { index := true } s t

/-- R144, R140 (the range check is the spec's decision D2, log 14): BCD stores the three decimal digits at `I`, `I + 1`, `I + 2`. -/
def Obligations.BcdStoresThreeDigits : Prop :=
  ∀ (s : State) (x : Nibble), decodeWord (wordXKK 0xF x 0x33) = some (.bcd x) ∧
    (s.mem.wf = true → s.i.toNat + 2 ≤ 4095 → ∃ t, exec (.bcd x) s = .next t ∧
      (t.mem.read (s.ea 0)).toNat = (s.reg x).toNat / 100 ∧
      (t.mem.read (s.ea 1)).toNat = (s.reg x).toNat / 10 % 10 ∧
      (t.mem.read (s.ea 2)).toNat = (s.reg x).toNat % 10 ∧
      t.pc.toNat = (s.pc.toNat + 2) % 65536 ∧ Unchanged { stored := [s.ea 0, s.ea 1, s.ea 2] } s t)

/-- R145, R140 (the range check is D2, `I` unchanged D18, log 14, 22): LD [I], Vx stores `V[0]`..`V[x]` at `I`..`I + x`. -/
def Obligations.StoreWritesTheFirstRegisters : Prop :=
  ∀ (s : State) (x : Nibble), decodeWord (wordXKK 0xF x 0x55) = some (.storeRegs x) ∧
    (s.mem.wf = true → s.i.toNat + x.toNat ≤ 4095 → ∃ t, exec (.storeRegs x) s = .next t ∧
      (∀ y : Nibble, y.toNat ≤ x.toNat → t.mem.read (s.ea y.toNat) = s.reg y) ∧
      t.pc.toNat = (s.pc.toNat + 2) % 65536 ∧ Unchanged { stored := (List.range (x.toNat + 1)).map s.ea } s t)

/-- R146, R140 (the range check is D2, `I` unchanged D18, log 14, 22): LD Vx, [I] loads `V[0]`..`V[x]` from `I`..`I + x`. -/
def Obligations.LoadReadsTheFirstRegisters : Prop :=
  ∀ (s : State) (x : Nibble), decodeWord (wordXKK 0xF x 0x65) = some (.loadRegs x) ∧
    (s.i.toNat + x.toNat ≤ 4095 → ∃ t, exec (.loadRegs x) s = .next t ∧
      (∀ y : Nibble, y.toNat ≤ x.toNat → t.reg y = s.mem.read (s.ea y.toNat)) ∧
      (∀ y : Nibble, x.toNat < y.toNat → t.reg y = s.reg y) ∧
      t.pc.toNat = (s.pc.toNat + 2) % 65536 ∧ Unchanged { regs := registersBelow (x.toNat + 1) } s t)

/-- R56, R174, R177 (the spec's decisions D2, D5, log 14): an instruction any of whose data addresses is above 4095 raises with
`ea = max(I, 4096)` and does nothing else. -/
def Obligations.AccessBeyondMemoryRaises : Prop :=
  ∀ (i : Instr) (s : State), 1 ≤ dataCount i → 4095 < s.i.toNat + dataCount i - 1 →
    ∃ t, exec i s = .next t ∧ Raised .addressOutOfRange s t ∧ t.faultInfo.opcode = s.ir ∧
      t.faultInfo.ea.toNat = max s.i.toNat 4096

/-- R52, R64, R145: the very next fetch sees a store; the byte of the lower-numbered register is the high byte. -/
def Obligations.StoreIsSeenByTheNextFetch : Prop :=
  ∀ (s t : State) (x : Nibble), s.mem.wf = true → 1 ≤ x.toNat → s.i.toNat + x.toNat ≤ 4095 → s.i.toNat = s.pc.toNat + 2 →
    exec (.storeRegs x) s = .next t → t.fetchWord = s.reg 0 ++ s.reg 1

/-- R145, R146: what LD [I], Vx stored, LD Vx, [I] loads back, whatever the registers hold in between. That `I` is still the address
after the store (`u.i = t.i`) rests on the spec's decision D18 (R140, log 22). -/
def Obligations.LoadRestoresWhatStoreSaved : Prop :=
  ∀ (s t u : State) (x : Nibble), s.mem.wf = true → s.i.toNat + x.toNat ≤ 4095 → exec (.storeRegs x) s = .next t →
    u.i = t.i → u.mem = t.mem → ∃ w, exec (.loadRegs x) u = .next w ∧ ∀ y : Nibble, y.toNat ≤ x.toNat → w.reg y = s.reg y

/-- R54, R61 (c): the canonical form: two memories in it that read alike at all 4096 addresses are the same data. -/
def Obligations.CanonicalMemoriesThatReadAlikeAreEqual : Prop :=
  ∀ m m' : Memory, m.wf = true → m'.wf = true → (∀ a, a < 4096 → m.read a = m'.read a) → m = m'

/-! ## Display (`43_display.md`) -/

/-- R151: CLS sets all 2048 pixels to 0. -/
def Obligations.ClearUnsetsEveryPixel : Prop :=
  decodeWord 0x00E0#16 = some .cls ∧
  ∀ s : State, ∃ t, exec .cls s = .next t ∧ (∀ X Y (hX : X < 64) (hY : Y < 32), pixel t.fb X Y hX hY = false) ∧
    t.pc.toNat = (s.pc.toNat + 2) % 65536 ∧ Unchanged { screen := true } s t

/-- R152, R153, R154 (the range check is D2, log 14): Dxyn inverts exactly the pixels the sprite's 1-bits fall on, wrapped, and
`VF` is 1 exactly when one of them was set. -/
def Obligations.DrawInvertsTheSpritePixels : Prop :=
  ∀ (s : State) (x y n : Nibble), decodeWord (wordXYN 0xD x y n) = some (.drw x y n) ∧
    (n.toNat = 0 ∨ s.i.toNat + n.toNat - 1 ≤ 4095 →
      ∃ t, exec (.drw x y n) s = .next t ∧ ∃ rows : List Byte, rows = (List.range n.toNat).map (fun r => s.mem.read (s.ea r)) ∧
        (∀ X Y (hX : X < 64) (hY : Y < 32),
          (SpriteBit (s.reg x).toNat (s.reg y).toNat rows X Y → pixel t.fb X Y hX hY = !pixel s.fb X Y hX hY) ∧
          (¬ SpriteBit (s.reg x).toNat (s.reg y).toNat rows X Y → pixel t.fb X Y hX hY = pixel s.fb X Y hX hY)) ∧
        (t.reg vf = 0 ∨ t.reg vf = 1) ∧
        (t.reg vf = 1 ↔ ∃ X Y, ∃ (hX : X < 64) (hY : Y < 32),
          pixel s.fb X Y hX hY = true ∧ SpriteBit (s.reg x).toNat (s.reg y).toNat rows X Y) ∧
        t.pc.toNat = (s.pc.toNat + 2) % 65536 ∧ Unchanged { regs := [vf], screen := true } s t)

/-- R154: the same sprite at the same place a second time restores the framebuffer, and `VF` is then 1 exactly when the first
draw turned at least one pixel on. -/
def Obligations.SecondDrawRestoresTheScreen : Prop :=
  ∀ (s t u : State) (x y n : Nibble), exec (.drw x y n) s = .next t → t.fault = s.fault →
    s.fault = .none → u.fb = t.fb → u.mem = s.mem → u.i = s.i → u.reg x = s.reg x → u.reg y = s.reg y →
    ∃ w, exec (.drw x y n) u = .next w ∧ w.fb = s.fb ∧
      (w.reg vf = 1 ↔ ∃ X Y, ∃ (hX : X < 64) (hY : Y < 32), pixel s.fb X Y hX hY = false ∧ pixel t.fb X Y hX hY = true)

/-- R153: only the start column modulo 64 and the start row modulo 32 matter. -/
def Obligations.DrawWrapsItsCoordinates : Prop :=
  ∀ (vx vy : Nat) (rows : List Byte) (fb : Framebuffer), drawSprite vx vy rows fb = drawSprite (vx % 64) (vy % 32) rows fb

/-! ## Keypad and timers (`44_keypad_timers.md`) -/

/-- R160, R161, R162: the three timer accesses. -/
def Obligations.TimerAccessesMoveOneByte : Prop :=
  ∀ (s : State) (x : Nibble),
    decodeWord (wordXKK 0xF x 0x07) = some (.ldVxDt x) ∧ decodeWord (wordXKK 0xF x 0x15) = some (.ldDtVx x) ∧
    decodeWord (wordXKK 0xF x 0x18) = some (.ldStVx x) ∧
    ∃ t u v, exec (.ldVxDt x) s = .next t ∧ exec (.ldDtVx x) s = .next u ∧ exec (.ldStVx x) s = .next v ∧
      t.reg x = s.dt ∧ u.dt = s.reg x ∧ v.st = s.reg x ∧
      t.pc.toNat = (s.pc.toNat + 2) % 65536 ∧ u.pc.toNat = (s.pc.toNat + 2) % 65536 ∧ v.pc.toNat = (s.pc.toNat + 2) % 65536 ∧
      Unchanged { regs := [x] } s t ∧ Unchanged { delay := true } s u ∧ Unchanged { sound := true } s v

/-- R163 (that the entering Step does not sample `keys` is the spec's decision D11, log 13): Fx0A enters the wait and moves nothing
else, whatever the sample. -/
def Obligations.KeyWaitEntryLeavesPcAndRegisters : Prop :=
  ∀ (s : State) (x : Nibble), decodeWord (wordXKK 0xF x 0x0A) = some (.ldVxK x) ∧
    ∃ t, exec (.ldVxK x) s = .next t ∧ t.kw = .awaitingPress ∧ t.kwReg = x ∧ t.pc = s.pc ∧ Unchanged { wait := true } s t ∧
      ∀ keys : BitVec 16, exec (.ldVxK x) { s with keysIn := keys } = .next { t with keysIn := keys }

/-- R164 (the lowest-numbered key is the spec's decision D10, one transition a Step D11, log 13): a Step in `AwaitingPress`. -/
def Obligations.PressStepLatchesTheLowestKey : Prop :=
  ∀ (s : State) (keys : BitVec 16) (rnd : Byte) (rest : List HostEvent),
    s.host = .step keys rnd :: rest → s.fault = .none → s.kw = .awaitingPress →
    (keys = 0 → step s = .next { s with host := rest, keysIn := keys, rndIn := rnd }) ∧
    (∀ k : Nibble, keys.getLsbD k.toNat = true → (∀ j : Nibble, j.toNat < k.toNat → keys.getLsbD j.toNat = false) →
      step s = .next { s with host := rest, keysIn := keys, rndIn := rnd, kw := .awaitingRelease, kwKey := k })

/-- R165: a Step in `AwaitingRelease` looks at the latched key only; on its release the wait resolves. -/
def Obligations.ReleaseStepResolvesTheWait : Prop :=
  ∀ (s : State) (keys : BitVec 16) (rnd : Byte) (rest : List HostEvent),
    s.host = .step keys rnd :: rest → s.fault = .none → s.kw = .awaitingRelease →
    (keys.getLsbD s.kwKey.toNat = true → step s = .next { s with host := rest, keysIn := keys, rndIn := rnd }) ∧
    (keys.getLsbD s.kwKey.toNat = false → ∃ t, step s = .next t ∧ t.kw = .running ∧ t.kwReg = s.kwReg ∧ t.kwKey = s.kwKey ∧
      (t.reg s.kwReg).toNat = s.kwKey.toNat ∧ t.pc.toNat = (s.pc.toNat + 2) % 65536 ∧
      Unchanged { regs := [s.kwReg], wait := true } { s with host := rest, keysIn := keys, rndIn := rnd } t)

/-- R163 to R166 (D10, D11, log 13): from an Fx0A, three Steps, the second with a key held, the third with that key released, load
its number; `pc` advances by 2 at the third only. -/
def Obligations.KeyWaitTakesPressThenRelease : Prop :=
  ∀ (s : State) (x k : Nibble) (a b c : BitVec 16) (r₀ r₁ r₂ : Byte) (rest : List HostEvent),
    s.fault = .none → s.kw = .running → s.pc.toNat ≤ 4094 →
    decodeWord (s.mem.read s.pc.toNat ++ s.mem.read (s.pc.toNat + 1)) = some (.ldVxK x) →
    s.host = .step a r₀ :: .step b r₁ :: .step c r₂ :: rest →
    b.getLsbD k.toNat = true → (∀ j : Nibble, j.toNat < k.toNat → b.getLsbD j.toNat = false) → c.getLsbD k.toNat = false →
    (∃ t, core.run 2 s = .next t ∧ t.pc = s.pc ∧ (∀ y, t.reg y = s.reg y) ∧ t.kw = .awaitingRelease) ∧
    ∃ u, core.run 3 s = .next u ∧ u.kw = .running ∧ (u.reg x).toNat = k.toNat ∧ (∀ y, y ≠ x → u.reg y = s.reg y) ∧
      u.pc.toNat = s.pc.toNat + 2 ∧ u.host = rest

/-! ## The Step sequencer, faults, Tick (`60_exceptions.md`) -/

/-- R170: a Step of a Running machine whose bytes at `pc` decode to `i` is `exec i` of the state with the samples presented and
`ir` written; from an empty queue the samples, and Ticks before the Step, are free values (log 1, 2, 3). -/
def Obligations.StepRunsTheDecodedInstruction : Prop :=
  ∀ (s : State) (i : Instr), s.fault = .none → s.kw = .running → s.pc.toNat ≤ 4094 →
    decodeWord (s.mem.read s.pc.toNat ++ s.mem.read (s.pc.toNat + 1)) = some i →
    (∀ keys rnd rest, s.host = .step keys rnd :: rest → step s = exec i (fetched s keys rnd rest)) ∧
    (s.host = [] → step s = exec i
      (fetched { s.ticks (Config.ticksBefore s.draws) with draws := s.draws + 1 }
        (Config.keysInput s.draws) (Config.rndInput s.draws) []))

/-- R170, R171, R176 (the codes and records are the spec's decision D7, log 7): a Step on a word that does not decode latches
DecodeFailure; `ir` holds the word and `pc` stays. -/
def Obligations.IllegalWordRaisesDecodeFailure : Prop :=
  ∀ (s : State) (keys : BitVec 16) (rnd : Byte) (rest : List HostEvent),
    s.host = .step keys rnd :: rest → s.fault = .none → s.kw = .running → s.pc.toNat ≤ 4094 →
    IllegalWord (s.mem.read s.pc.toNat ++ s.mem.read (s.pc.toNat + 1)) →
    ∃ t, step s = .next t ∧ Raised .decodeFailure (fetched s keys rnd rest) t ∧ t.faultInfo.opcode = t.ir

/-- R57, R175, R176 (the spec's decision D3, log 14): a Running Step with `pc > 4094` raises FetchOutOfRange and `ir` is not written. -/
def Obligations.FetchBeyondMemoryRaises : Prop :=
  ∀ (s : State) (keys : BitVec 16) (rnd : Byte) (rest : List HostEvent),
    s.host = .step keys rnd :: rest → s.fault = .none → s.kw = .running → 4094 < s.pc.toNat →
    ∃ t, step s = .next t ∧ Raised .fetchOutOfRange { s with host := rest, keysIn := keys, rndIn := rnd } t

/-- R177, R179 (the spec's decision D5, log 7): a Step that raises leaves every element but `fault`, `fault_info` and `ir` as it was;
it is a Running Step, and `ir` is the fetched word unless the fetch itself raised. -/
def Obligations.FaultsArePrecise : Prop :=
  ∀ (s t : State) (keys : BitVec 16) (rnd : Byte) (rest : List HostEvent),
    s.host = .step keys rnd :: rest → s.fault = .none → step s = .next t → t.fault ≠ .none →
    s.kw = .running ∧ t.faultInfo.pc = s.pc ∧
    t = { s with host := rest, keysIn := keys, rndIn := rnd, fault := t.fault, faultInfo := t.faultInfo, draws := t.draws, ir := t.ir } ∧
    (t.fault = .fetchOutOfRange → 4094 < s.pc.toNat ∧ t.ir = s.ir) ∧
    (t.fault ≠ .fetchOutOfRange →
      s.pc.toNat ≤ 4094 ∧ t.ir = s.mem.read s.pc.toNat ++ s.mem.read (s.pc.toNat + 1) ∧ t.faultInfo.opcode = t.ir)

/-- R178, R183 (the spec's decisions D6, D20, log 7): once a fault is latched, no number of events that hold no Init changes any
architectural state. -/
def Obligations.HaltedMachineNeverChanges : Prop :=
  ∀ (n : Nat) (s : State), s.fault ≠ .none → (∀ a, HostEvent.init a ∉ s.host) → ∃ t, core.run n s = .next t ∧ SameArch s t

/-- R183: a Tick counts each nonzero timer down by 1; it acts in the key-wait states too. That a Halted machine ignores it is the
spec's decision D20 (log 7). -/
def Obligations.TickCountsBothTimersDown : Prop :=
  ∀ (s : State) (rest : List HostEvent), s.host = .tick :: rest →
    ∃ t, step s = .next t ∧ t = { s with host := rest, dt := t.dt, st := t.st } ∧
      (s.fault = .none → t.dt.toNat = s.dt.toNat - 1 ∧ t.st.toNat = s.st.toNat - 1) ∧
      (s.fault ≠ .none → t.dt = s.dt ∧ t.st = s.st)

/-- R183: `n` Ticks in a row take each timer down by `n`, floored at 0, and change nothing else. -/
def Obligations.TicksFloorTheTimersAtZero : Prop :=
  ∀ (n : Nat) (s : State) (rest : List HostEvent), s.fault = .none → s.host = List.replicate n .tick ++ rest →
    ∃ t, core.run n s = .next t ∧ t.dt.toNat = s.dt.toNat - n ∧ t.st.toNat = s.st.toNat - n ∧
      t = { s with host := rest, dt := t.dt, st := t.st }

/-- R26, R184: the timers are decoupled from execution: an instruction other than the three timer accesses gives the same result
before and after a Tick. -/
def Obligations.TickCommutesWithOtherInstructions : Prop :=
  ∀ (i : Instr) (s t : State), (∀ x, i ≠ .ldVxDt x ∧ i ≠ .ldDtVx x ∧ i ≠ .ldStVx x) →
    exec i s = .next t → t.fault = s.fault → exec i s.tick = .next t.tick

/-- R44 (f): over any step, a timer that rose was set by its own instruction, fetched by that step. -/
def Obligations.TimersRiseOnlyByTheirInstruction : Prop :=
  ∀ s t : State, step s = .next t →
    (s.dt.toNat < t.dt.toNat → s.kw = .running ∧ s.fault = .none ∧ ∃ x, decodeWord s.fetchWord = some (.ldDtVx x)) ∧
    (s.st.toNat < t.st.toNat → s.kw = .running ∧ s.fault = .none ∧ ∃ x, decodeWord s.fetchWord = some (.ldStVx x))

/-! ## Init (`70_reset_and_hazards.md`) -/

/-- R190, R37, R58 (several of the values are the spec's decisions D13, D21, D28, log 12): the Init event, for every font,
fill byte and program of legal length. -/
def Obligations.InitSetsEveryElement : Prop :=
  ∀ (s : State) (a : InitArgs) (rest : List HostEvent), s.host = .init a :: rest →
    ∀ (hf : a.font.length = 80), a.program.length ≤ 3584 →
    ∃ t, step s = .next t ∧ (∀ y, t.reg y = 0) ∧ t.i = 0 ∧ t.pc = 0x0200 ∧ t.sp = 0 ∧
      (∀ (j : Nat) (h : j < 16), t.stack[j] = 0) ∧ t.dt = 0 ∧ t.st = 0 ∧
      (∀ X Y (hX : X < 64) (hY : Y < 32), pixel t.fb X Y hX hY = false) ∧
      t.kw = .running ∧ t.kwReg = 0 ∧ t.kwKey = 0 ∧ t.ir = 0 ∧ t.fault = .none ∧ t.host = rest ∧
      (∀ k (h : k < 80), t.mem.read k = a.font[k]) ∧
      (∀ k (h : k < a.program.length), t.mem.read (0x200 + k) = a.program[k]) ∧
      (∀ k, (80 ≤ k ∧ k < 0x200) ∨ (0x200 + a.program.length ≤ k ∧ k < 4096) → t.mem.read k = a.memFill)

/-- Init with a program longer than 3584 bytes is refused: R191, the spec's decision D15. That Init with a font that is not 80 bytes is
refused too is the model's choice (log 9, from the 80 bytes of R5 and R6). -/
def Obligations.OverlongInitIsRefused : Prop :=
  ∀ (s : State) (a : InitArgs) (rest : List HostEvent), s.host = .init a :: rest →
    3584 < a.program.length ∨ a.font.length ≠ 80 → step s = .refused .initArgs

/-- The model's choice, log 11, 4, 5: the reset state is the result of Init with the empty program and the default parameters. -/
def Obligations.ResetIsInitWithNoProgram : Prop :=
  State.reset.init ⟨[], defaultFont, defaultMemFill⟩ = State.reset

/-- The model's convention, log 10, 18: the host's table word is what the next step runs, from any state. -/
def Obligations.PlacedWordIsRunByTheNextStep : Prop :=
  ∀ (s : State) (w : Nat) (i : Instr), s.mem.wf = true → decodeTableWord 16 w = some i →
    ∃ u, step (s.withFetchWord 16 w) = exec i u ∧ u.ir.toNat = w % 65536 ∧ u.v = s.v ∧ u.i = s.i ∧ u.sp = s.sp ∧
      u.stack = s.stack ∧ u.fb = s.fb ∧ (s.pc.toNat ≤ 4094 → u.pc = s.pc)

/-! ## Whole-machine rules -/

/-- R44 (a), (b), (d), R23, R166 (f): every step, of whatever event, keeps the invariant. -/
def Obligations.EveryStepKeepsTheInvariant : Prop :=
  ∀ s t : State, Inv s → step s = .next t → Inv t

/-- R37, R44: the reset state meets the invariant (its memory default is the model's, log 4, 5, 11). -/
def Obligations.ResetMeetsTheInvariant : Prop := Inv State.reset

/-- R177, R191: from a state that meets the invariant a step never stops, but for an Init event that is not one of the machine. It rests on
the spec's decisions that a raise latches the fault and the model's reading of it as a NEXT state (D5, D6, log 7), on the bound on
`sp` of the invariant (R44 a, D4, log 8), and on the refusal of an ill-formed Init: a program too long by the spec's decision D15, a font not of 80 bytes by the model's choice
(log 9). -/
def Obligations.StepsNeverStopExceptOnIllegalInit : Prop :=
  ∀ s : State, Inv s →
    (∃ t, step s = .next t) ∨ ∃ a rest, s.host = .init a :: rest ∧ a.wf = false ∧ step s = .refused .initArgs

/-- R45, R51, R21, R24 to R27 (that the effects are exhaustive is the spec's decision D18, log 22): whatever the instruction, what it writes
is in its row of the access table, or it raised. -/
def Obligations.InstructionsWriteOnlyTheirTableEntries : Prop :=
  ∀ (i : Instr) (s t : State), exec i s = .next t → Unchanged (writesOf s i) s t ∨ ∃ c, c ≠ .none ∧ Raised c s t

/-- R100: the complete program-counter contract; a Step that raises leaves `pc`. The conditions of the skips are those of R104 to R107,
R109, R110; that SKP and SKNP test the key of the low nibble of `V[x]` is the spec's decision D9 (log 13). -/
def Obligations.PcFollowsItsContract : Prop :=
  ∀ (i : Instr) (s t : State), exec i s = .next t → PcContract i s t ∨ ∃ c, c ≠ .none ∧ Raised c s t

/-- R26, R38, R39, R45, R180, one clause per input: `keys` is read by SKP and SKNP only, `rnd` by RND only, `dt` by LD Vx, DT only and
`st` by no instruction. With another value in the input, any other instruction goes on to the same state but for that input, which
keeps its value, unless the instruction is the one that writes that timer: then it writes the same value. -/
def Obligations.InputsAndTimersAreReadByTheirInstructionsOnly : Prop :=
  ∀ (i : Instr) (s t : State), exec i s = .next t →
    ((∀ x, i ≠ .skp x ∧ i ≠ .sknp x) → ∀ keys : BitVec 16, exec i { s with keysIn := keys } = .next { t with keysIn := keys }) ∧
    ((∀ x kk, i ≠ .rnd x kk) → ∀ rnd : Byte, exec i { s with rndIn := rnd } = .next { t with rndIn := rnd }) ∧
    ((∀ x, i ≠ .ldVxDt x) → ∀ dt : Byte, ∃ t', exec i { s with dt := dt } = .next t' ∧ t' = { t with dt := t'.dt } ∧
      ((∃ x, i = .ldDtVx x) → t'.dt = t.dt) ∧ ((∀ x, i ≠ .ldDtVx x) → t'.dt = dt)) ∧
    (∀ st : Byte, ∃ t', exec i { s with st := st } = .next t' ∧ t' = { t with st := t'.st } ∧
      ((∃ x, i = .ldStVx x) → t'.st = t.st) ∧ ((∀ x, i ≠ .ldStVx x) → t'.st = st))

/-- R101, R103: CALL then RETURN goes to the instruction after the CALL, at any of the 16 depths, whatever ran in between and
left the stack as the CALL did. -/
def Obligations.ReturnGoesPastItsCall : Prop :=
  ∀ (s t u : State) (nnn : Addr12), s.sp.toNat < 16 → exec (.call nnn) s = .next t → u.sp = t.sp → u.stack = t.stack →
    ∃ w, exec .ret u = .next w ∧ w.pc.toNat = (s.pc.toNat + 2) % 65536 ∧ w.sp = s.sp
end

