-- ==== Sys2Proof/Laws/Decode.lean ====
section
/-! SUPPORT. Laws of the encoding: words and fields as numbers, the fields of a word put together, a word and its two bytes. -/

namespace Sys2Proof

/-! ## Words and fields as numbers (R71, R72) -/

theorem toNat_append_lt {a b : Nat} (u : BitVec a) (v : BitVec b) : (u ++ v).toNat = u.toNat * 2 ^ b + v.toNat := by
  rw [BitVec.toNat_append, ← Nat.shiftLeft_add_eq_or_of_lt v.isLt, Nat.shiftLeft_eq]

section
variable (op x y n : Nibble) (kk : Byte) (nnn : Addr12)

theorem toNat_wordNNN : (wordNNN op nnn).toNat = op.toNat * 4096 + nnn.toNat :=
  toNat_append_lt op nnn

theorem toNat_wordXKK : (wordXKK op x kk).toNat = op.toNat * 4096 + x.toNat * 256 + kk.toNat := by
  have h : (wordXKK op x kk).toNat = (op ++ x).toNat * 2 ^ 8 + kk.toNat := toNat_append_lt (op ++ x) kk
  rw [h, toNat_append_lt]
  omega

theorem toNat_wordXYN : (wordXYN op x y n).toNat = op.toNat * 4096 + x.toNat * 256 + y.toNat * 16 + n.toNat := by
  have h : (wordXYN op x y n).toNat = (op ++ x ++ y).toNat * 2 ^ 4 + n.toNat := toNat_append_lt (op ++ x ++ y) n
  rw [h, toNat_append_lt, toNat_append_lt]
  omega
end

section
variable (w : Word)

theorem toNat_extract (s l : Nat) : (w.extractLsb' s l).toNat = w.toNat / 2 ^ s % 2 ^ l := by
  simp [Nat.shiftRight_eq_div_pow]

theorem toNat_fieldOp : (fieldOp w).toNat = w.toNat / 4096 := by
  have := w.isLt
  rw [fieldOp, toNat_extract]
  omega
theorem toNat_fieldX : (fieldX w).toNat = w.toNat / 256 % 16 := toNat_extract w 8 4
theorem toNat_fieldY : (fieldY w).toNat = w.toNat / 16 % 16 := toNat_extract w 4 4
theorem toNat_fieldN : (fieldN w).toNat = w.toNat % 16 := by
  rw [fieldN, toNat_extract]
  omega
theorem toNat_fieldKK : (fieldKK w).toNat = w.toNat % 256 := by
  rw [fieldKK, toNat_extract]
  omega
theorem toNat_fieldNNN : (fieldNNN w).toNat = w.toNat % 4096 := by
  rw [fieldNNN, toNat_extract]
  omega
theorem toNat_highByte : (highByte w).toNat = w.toNat / 256 := by
  have := w.isLt
  rw [highByte, toNat_extract]
  omega
theorem toNat_lowByte : (lowByte w).toNat = w.toNat % 256 := by
  rw [lowByte, toNat_extract]
  omega
end

/-! ## The fields of the formats -/

section
variable (op x y n : Nibble) (kk : Byte) (nnn : Addr12)

@[simp] theorem fieldOp_wordNNN : fieldOp (wordNNN op nnn) = op := by
  apply BitVec.eq_of_toNat_eq
  have := nnn.isLt
  rw [toNat_fieldOp, toNat_wordNNN]
  omega
@[simp] theorem fieldNNN_wordNNN : fieldNNN (wordNNN op nnn) = nnn := by
  apply BitVec.eq_of_toNat_eq
  have := nnn.isLt
  rw [toNat_fieldNNN, toNat_wordNNN]
  omega
@[simp] theorem fieldOp_wordXKK : fieldOp (wordXKK op x kk) = op := by
  apply BitVec.eq_of_toNat_eq
  have := x.isLt
  have := kk.isLt
  rw [toNat_fieldOp, toNat_wordXKK]
  omega
@[simp] theorem fieldX_wordXKK : fieldX (wordXKK op x kk) = x := by
  apply BitVec.eq_of_toNat_eq
  have := x.isLt
  have := kk.isLt
  rw [toNat_fieldX, toNat_wordXKK]
  omega
@[simp] theorem fieldKK_wordXKK : fieldKK (wordXKK op x kk) = kk := by
  apply BitVec.eq_of_toNat_eq
  have := kk.isLt
  rw [toNat_fieldKK, toNat_wordXKK]
  omega
@[simp] theorem fieldOp_wordXYN : fieldOp (wordXYN op x y n) = op := by
  apply BitVec.eq_of_toNat_eq
  have := x.isLt
  have := y.isLt
  have := n.isLt
  rw [toNat_fieldOp, toNat_wordXYN]
  omega
@[simp] theorem fieldX_wordXYN : fieldX (wordXYN op x y n) = x := by
  apply BitVec.eq_of_toNat_eq
  have := x.isLt
  have := y.isLt
  have := n.isLt
  rw [toNat_fieldX, toNat_wordXYN]
  omega
@[simp] theorem fieldY_wordXYN : fieldY (wordXYN op x y n) = y := by
  apply BitVec.eq_of_toNat_eq
  have := y.isLt
  have := n.isLt
  rw [toNat_fieldY, toNat_wordXYN]
  omega
@[simp] theorem fieldN_wordXYN : fieldN (wordXYN op x y n) = n := by
  apply BitVec.eq_of_toNat_eq
  have := n.isLt
  rw [toNat_fieldN, toNat_wordXYN]
  omega
end

/-! ## A word is its fields -/

theorem wordNNN_fields (w : Word) : wordNNN (fieldOp w) (fieldNNN w) = w := by
  apply BitVec.eq_of_toNat_eq
  rw [toNat_wordNNN, toNat_fieldOp, toNat_fieldNNN]
  omega

theorem wordXKK_fields (w : Word) : wordXKK (fieldOp w) (fieldX w) (fieldKK w) = w := by
  apply BitVec.eq_of_toNat_eq
  rw [toNat_wordXKK, toNat_fieldOp, toNat_fieldX, toNat_fieldKK]
  omega

theorem wordXYN_fields (w : Word) : wordXYN (fieldOp w) (fieldX w) (fieldY w) (fieldN w) = w := by
  apply BitVec.eq_of_toNat_eq
  rw [toNat_wordXYN, toNat_fieldOp, toNat_fieldX, toNat_fieldY, toNat_fieldN]
  omega

/-! ## The three masks of R74 that leave fields free -/

theorem getLsbD_wordNNN (op : Nibble) (nnn : Addr12) (i : Nat) :
    (wordNNN op nnn).getLsbD i = if i < 12 then nnn.getLsbD i else op.getLsbD (i - 12) := BitVec.getLsbD_append

theorem getLsbD_wordXKK (op x : Nibble) (kk : Byte) (i : Nat) :
    (wordXKK op x kk).getLsbD i =
      if i < 8 then kk.getLsbD i else if i - 8 < 4 then x.getLsbD (i - 8) else op.getLsbD (i - 8 - 4) :=
  BitVec.getLsbD_append.trans (by rw [BitVec.getLsbD_append])

theorem getLsbD_wordXYN (op x y n : Nibble) (i : Nat) :
    (wordXYN op x y n).getLsbD i =
      if i < 4 then n.getLsbD i
      else if i - 4 < 4 then y.getLsbD (i - 4)
      else if i - 4 - 4 < 4 then x.getLsbD (i - 4 - 4) else op.getLsbD (i - 4 - 4 - 4) :=
  BitVec.getLsbD_append.trans (by rw [BitVec.getLsbD_append, BitVec.getLsbD_append])

theorem and_opMask (w : Word) : w &&& 0xF000#16 = wordNNN (fieldOp w) 0#12 := by
  apply BitVec.eq_of_getLsbD_eq
  intro i hi
  rw [getLsbD_wordNNN]
  interval_cases i <;> simp [fieldOp]

theorem and_opNMask (w : Word) : w &&& 0xF00F#16 = wordXYN (fieldOp w) 0#4 0#4 (fieldN w) := by
  apply BitVec.eq_of_getLsbD_eq
  intro i hi
  rw [getLsbD_wordXYN]
  interval_cases i <;> simp [fieldOp, fieldN]

theorem and_opKKMask (w : Word) : w &&& 0xF0FF#16 = wordXKK (fieldOp w) 0#4 (fieldKK w) := by
  apply BitVec.eq_of_getLsbD_eq
  intro i hi
  rw [getLsbD_wordXKK]
  interval_cases i <;> simp [fieldOp, fieldKK]

/-! ## A word and its bytes (R52) -/

@[simp] theorem wordOfBytes_bytes (w : Word) : wordOfBytes (highByte w) (lowByte w) = w := by
  apply BitVec.eq_of_toNat_eq
  have h : (wordOfBytes (highByte w) (lowByte w)).toNat = (highByte w).toNat * 2 ^ 8 + (lowByte w).toNat :=
    toNat_append_lt (highByte w) (lowByte w)
  rw [h, toNat_highByte, toNat_lowByte]
  omega

theorem decode_cons (hi lo : Byte) (rest : List Byte) :
    decode (hi :: lo :: rest) =
      match decodeWord (wordOfBytes hi lo) with
      | some i => .ok (i, rest)
      | none => .error (.decodeFailure (wordOfBytes hi lo)) := rfl

end Sys2Proof
end

