-- ==== Sys2Proof/Laws/Display.lean ====
section
/-! SUPPORT. Laws of the framebuffer: one pixel read after one written, the clear framebuffer, one sprite pixel. -/

namespace Sys2Proof.Machine

section
variable (fb : Framebuffer) {X Y X' Y' : Nat} (hX : X < 64) (hY : Y < 32) (hX' : X' < 64) (hY' : Y' < 32)

/-- A pixel after one pixel is written. -/
theorem pixel_setPixel (b : Bool) :
    pixel (setPixel fb X Y hX hY b) X' Y' hX' hY' = if X = X' ∧ Y = Y' then b else pixel fb X' Y' hX' hY' := by
  simp only [pixel, setPixel, Vector.getElem_set]
  by_cases h : X = X'
  · subst h
    by_cases h2 : Y = Y'
    · subst h2
      simp
    · simp [h2]
  · simp [h]

theorem pixel_clear : pixel clearFramebuffer X Y hX hY = false := by
  simp [pixel, clearFramebuffer]

/-- Two framebuffers with the same pixels are the same. -/
theorem framebuffer_ext {fb fb' : Framebuffer} (h : ∀ X Y (hX : X < 64) (hY : Y < 32), pixel fb X Y hX hY = pixel fb' X Y hX hY) :
    fb = fb' := by
  apply Vector.ext
  intro X hX
  apply Vector.ext
  intro Y hY
  exact h X Y hX hY
end

section
variable (p : Framebuffer × Bool) {X Y X' Y' : Nat} (hX : X < 64) (hY : Y < 32) (hX' : X' < 64) (hY' : Y' < 32) (bit : Bool)

/-- Drawing one pixel XORs it and leaves every other pixel alone (R152). -/
theorem pixel_drawPixel :
    pixel (drawPixel p X Y hX hY bit).1 X' Y' hX' hY' =
      if X = X' ∧ Y = Y' then (pixel p.1 X' Y' hX' hY' ^^ bit) else pixel p.1 X' Y' hX' hY' := by
  rw [drawPixel, pixel_setPixel]
  split
  · rename_i h
    obtain ⟨rfl, rfl⟩ := h
    rfl
  · rfl

/-- Drawing one pixel records a collision exactly when it was set and the bit is 1 (R154). -/
@[simp] theorem drawPixel_collision : (drawPixel p X Y hX hY bit).2 = (p.2 || (pixel p.1 X Y hX hY && bit)) := rfl
end

end Sys2Proof.Machine
end

