-- ==== Sys2Proof/Laws/Memory.lean ====
section
/-! SUPPORT. Laws of memory: read after write, the canonical form and that every operation keeps it, the image of Init. -/

namespace Sys2Proof.Machine

/-! ## One byte -/

@[simp] theorem Memory.read_nil (a : Nat) : Memory.read [] a = Memory.unlisted a := rfl

/-- In a list canonical from above `a`, `a` is not listed. -/
theorem Memory.read_below {m : Memory} {lo a : Nat} (h : Memory.wfFrom lo m = true) (ha : a < lo) :
    m.read a = Memory.unlisted a := by
  induction m generalizing lo with
  | nil => rfl
  | cons e m ih =>
    obtain ⟨k, b⟩ := e
    simp only [Memory.wfFrom, Bool.and_eq_true, decide_eq_true_eq] at h
    have hk : k ≠ a := by omega
    simp [Memory.read, hk, ih h.2 (by omega)]

theorem Memory.wfFrom_mono {m : Memory} {lo lo' : Nat} (h : Memory.wfFrom lo m = true) (hl : lo' ≤ lo) :
    Memory.wfFrom lo' m = true := by
  cases m with
  | nil => rfl
  | cons e m =>
    obtain ⟨k, b⟩ := e
    simp only [Memory.wfFrom, Bool.and_eq_true, decide_eq_true_eq] at h ⊢
    exact ⟨⟨⟨by omega, h.1.1.2⟩, h.1.2⟩, h.2⟩

theorem Memory.read_write_same {m : Memory} {lo a : Nat} {v : Byte} (h : Memory.wfFrom lo m = true) :
    (m.write a v).read a = v := by
  induction m generalizing lo with
  | nil =>
    by_cases hv : v = Memory.unlisted a
    · simp [Memory.write, hv]
    · simp [Memory.write, hv, Memory.read]
  | cons e m ih =>
    obtain ⟨k, b⟩ := e
    have hall := h
    simp only [Memory.wfFrom, Bool.and_eq_true, decide_eq_true_eq] at h
    unfold Memory.write
    split
    · split
      · rename_i hlt hv
        rw [hv]
        exact Memory.read_below (lo := k) (by simp [Memory.wfFrom, h]) hlt
      · simp [Memory.read]
    · split
      · split
        · rename_i heq hv
          rw [hv]
          exact Memory.read_below h.2 (by omega)
        · simp [Memory.read]
      · rename_i hne
        have : k ≠ a := fun e => hne e.symm
        simp [Memory.read, this, ih h.2]

theorem Memory.read_write_ne {m : Memory} {a c : Nat} {v : Byte} (h : c ≠ a) :
    (m.write a v).read c = m.read c := by
  induction m with
  | nil => by_cases hv : v = Memory.unlisted a <;> simp [Memory.write, hv, Memory.read, h.symm]
  | cons e m ih =>
    obtain ⟨k, b⟩ := e
    unfold Memory.write
    split
    · split <;> simp [Memory.read, h.symm]
    · split
      · rename_i heq
        subst heq
        split <;> simp [Memory.read, h.symm]
      · simp [Memory.read, ih]

theorem Memory.wfFrom_write {m : Memory} {lo a : Nat} {v : Byte} (h : Memory.wfFrom lo m = true) (hlo : lo ≤ a)
    (ha : a < 4096) : Memory.wfFrom lo (m.write a v) = true := by
  induction m generalizing lo with
  | nil => by_cases hv : v = Memory.unlisted a <;> simp [Memory.write, hv, Memory.wfFrom, hlo, ha]
  | cons e m ih =>
    obtain ⟨k, b⟩ := e
    simp only [Memory.wfFrom, Bool.and_eq_true, decide_eq_true_eq] at h
    unfold Memory.write
    split
    · split
      · simp [Memory.wfFrom, h]
      · rename_i hlt hv
        simp [Memory.wfFrom, h, hv, hlo, ha]
        omega
    · split
      · rename_i heq
        subst heq
        split
        · exact Memory.wfFrom_mono h.2 (by omega)
        · rename_i hv
          simp [Memory.wfFrom, h, hv]
      · have := ih h.2 (by omega)
        simp [Memory.wfFrom, h, this]

/-- A write inside the address space keeps the canonical form. -/
theorem Memory.wf_write {m : Memory} {a : Nat} {v : Byte} (h : m.wf = true) (ha : a < 4096) : (m.write a v).wf = true :=
  Memory.wfFrom_write h (Nat.zero_le a) ha

theorem Memory.wf_nil : Memory.wf [] = true := rfl

/-! ## Several bytes -/

@[simp] theorem Memory.readBytes_length (m : Memory) (a n : Nat) : (m.readBytes a n).length = n := by
  induction n generalizing a with
  | zero => rfl
  | succ n ih => simp [Memory.readBytes, ih]

theorem Memory.readBytes_getElem (m : Memory) (a n k : Nat) (h : k < (m.readBytes a n).length) :
    (m.readBytes a n)[k] = m.read (a + k) := by
  induction n generalizing a k with
  | zero => simp at h
  | succ n ih =>
    cases k with
    | zero => rfl
    | succ k =>
      simp only [Memory.readBytes, List.getElem_cons_succ]
      rw [ih, Nat.add_assoc, Nat.add_comm 1]

/-- A store of several bytes inside the address space keeps the canonical form. -/
theorem Memory.wf_writeBytes {m : Memory} {a : Nat} {bs : List Byte} (h : m.wf = true) (ha : a + bs.length ≤ 4096) :
    (m.writeBytes a bs).wf = true := by
  induction bs generalizing m a with
  | nil => exact h
  | cons b bs ih =>
    simp only [List.length_cons] at ha
    exact ih (Memory.wf_write h (by omega)) (by omega)

/-- A store of several bytes leaves every other address alone. -/
theorem Memory.read_writeBytes_outside {m : Memory} {a c : Nat} {bs : List Byte} (h : c < a ∨ a + bs.length ≤ c) :
    (m.writeBytes a bs).read c = m.read c := by
  induction bs generalizing m a with
  | nil => rfl
  | cons b bs ih =>
    simp only [List.length_cons] at h
    rw [Memory.writeBytes, ih (by omega), Memory.read_write_ne (by omega)]

/-- A stored byte reads back. -/
theorem Memory.read_writeBytes_inside {m : Memory} {a k : Nat} {bs : List Byte} (h : m.wf = true)
    (ha : a + bs.length ≤ 4096) (hk : k < bs.length) : (m.writeBytes a bs).read (a + k) = bs[k] := by
  induction bs generalizing m a k with
  | nil => simp at hk
  | cons b bs ih =>
    simp only [List.length_cons] at ha hk
    cases k with
    | zero =>
      rw [Memory.writeBytes, Memory.read_writeBytes_outside (by omega)]
      exact Memory.read_write_same h
    | succ k =>
      have := ih (m := m.write a b) (a := a + 1) (k := k) (Memory.wf_write h (by omega)) (by omega) (by omega)
      rw [Memory.writeBytes, show a + (k + 1) = a + 1 + k by omega, this]
      rfl

/-! ## The image of Init -/

theorem Memory.wfFrom_ofBytes {a : Nat} {bs : List Byte} (h : a + bs.length ≤ 4096) :
    Memory.wfFrom a (Memory.ofBytes a bs) = true := by
  induction bs generalizing a with
  | nil => rfl
  | cons b bs ih =>
    simp only [List.length_cons] at h
    have := ih (a := a + 1) (by omega)
    unfold Memory.ofBytes
    split
    · exact Memory.wfFrom_mono this (by omega)
    · rename_i hb
      simp [Memory.wfFrom, hb, this]
      omega

/-- The image reads as its bytes. -/
theorem Memory.read_ofBytes {a k : Nat} {bs : List Byte} (h : a + bs.length ≤ 4096) (hk : k < bs.length) :
    (Memory.ofBytes a bs).read (a + k) = bs[k] := by
  induction bs generalizing a k with
  | nil => simp at hk
  | cons b bs ih =>
    simp only [List.length_cons] at h hk
    have hwf := Memory.wfFrom_ofBytes (a := a + 1) (bs := bs) (by omega)
    cases k with
    | zero =>
      unfold Memory.ofBytes
      split
      · rename_i hb
        simpa [hb] using Memory.read_below hwf (a := a) (by omega)
      · simp [Memory.read]
    | succ k =>
      have := ih (a := a + 1) (k := k) (by omega) (by omega)
      rw [show a + 1 + k = a + (k + 1) by omega] at this
      unfold Memory.ofBytes
      split
      · simpa using this
      · simpa [Memory.read] using this

/-- An image that holds the reset contents lists nothing. -/
theorem Memory.ofBytes_unlisted {a : Nat} {bs : List Byte} (h : ∀ (k : Nat) (hk : k < bs.length), bs[k] = Memory.unlisted (a + k)) :
    Memory.ofBytes a bs = [] := by
  induction bs generalizing a with
  | nil => rfl
  | cons b bs ih =>
    have h0 : b = Memory.unlisted a := h 0 (by simp)
    rw [Memory.ofBytes, if_pos h0]
    refine ih fun k hk => ?_
    have := h (k + 1) (by simpa using hk)
    rw [show a + 1 + k = a + (k + 1) by omega]
    simpa using this

theorem initImage_length {a : InitArgs} (hf : a.font.length = 80) (hp : a.program.length ≤ 3584) :
    (initImage a).length = 4096 := by
  simp only [initImage, List.length_append, List.length_replicate, hf]
  omega

/-- The image starts with `FONT` (R190). -/
theorem initImage_font {a : InitArgs} (hf : a.font.length = 80) (hp : a.program.length ≤ 3584) {k : Nat}
    (h : k < 80) :
    (initImage a)[k]'(by rw [initImage_length hf hp]; omega) = a.font[k] := by
  have hl : (a.font ++ List.replicate 432 a.memFill).length = 512 := by rw [List.length_append, hf, List.length_replicate]
  unfold initImage
  rw [List.getElem_append_left (by rw [List.length_append, hl]; omega), List.getElem_append_left (by omega),
    List.getElem_append_left]

/-- The image holds `PROGRAM` from `0x200` (R190). -/
theorem initImage_program {a : InitArgs} (hf : a.font.length = 80) (hp : a.program.length ≤ 3584) {k : Nat}
    (h : k < a.program.length) :
    (initImage a)[0x200 + k]'(by rw [initImage_length hf hp]; omega) = a.program[k] := by
  have hl : (a.font ++ List.replicate 432 a.memFill).length = 512 := by rw [List.length_append, hf, List.length_replicate]
  unfold initImage
  rw [List.getElem_append_left (by rw [List.length_append, hl]; omega), List.getElem_append_right (by omega)]
  simp only [hl, Nat.add_sub_cancel_left]

/-- Elsewhere the image holds `MEM_FILL` (R190). -/
theorem initImage_fill {a : InitArgs} (hf : a.font.length = 80) (hp : a.program.length ≤ 3584) {k : Nat}
    (h : (80 ≤ k ∧ k < 0x200) ∨ (0x200 + a.program.length ≤ k ∧ k < 4096)) :
    (initImage a)[k]'(by rw [initImage_length hf hp]; omega) = a.memFill := by
  have hl : (a.font ++ List.replicate 432 a.memFill).length = 512 := by rw [List.length_append, hf, List.length_replicate]
  unfold initImage
  rcases h with h | h
  · rw [List.getElem_append_left (by rw [List.length_append, hl]; omega), List.getElem_append_left (by omega),
      List.getElem_append_right (by omega), List.getElem_replicate]
  · rw [List.getElem_append_right (by rw [List.length_append, hl]; omega), List.getElem_replicate]

end Sys2Proof.Machine
end

