-- ==== Sys2Proof/Laws/State.lean ====
section
/-! SUPPORT. One lemma per field per update of State: what each named operation leaves in each field. -/

namespace Sys2Proof.Machine

variable (s : State)


/-! ### setReg -/

@[simp] theorem State.setReg_v (x : Nibble) (b : Byte) : (s.setReg x b).v = s.v.set x.toNat b := rfl
@[simp] theorem State.setReg_i (x : Nibble) (b : Byte) : (s.setReg x b).i = s.i := rfl
@[simp] theorem State.setReg_pc (x : Nibble) (b : Byte) : (s.setReg x b).pc = s.pc := rfl
@[simp] theorem State.setReg_sp (x : Nibble) (b : Byte) : (s.setReg x b).sp = s.sp := rfl
@[simp] theorem State.setReg_stack (x : Nibble) (b : Byte) : (s.setReg x b).stack = s.stack := rfl
@[simp] theorem State.setReg_dt (x : Nibble) (b : Byte) : (s.setReg x b).dt = s.dt := rfl
@[simp] theorem State.setReg_st (x : Nibble) (b : Byte) : (s.setReg x b).st = s.st := rfl
@[simp] theorem State.setReg_fb (x : Nibble) (b : Byte) : (s.setReg x b).fb = s.fb := rfl
@[simp] theorem State.setReg_mem (x : Nibble) (b : Byte) : (s.setReg x b).mem = s.mem := rfl
@[simp] theorem State.setReg_kw (x : Nibble) (b : Byte) : (s.setReg x b).kw = s.kw := rfl
@[simp] theorem State.setReg_kwReg (x : Nibble) (b : Byte) : (s.setReg x b).kwReg = s.kwReg := rfl
@[simp] theorem State.setReg_kwKey (x : Nibble) (b : Byte) : (s.setReg x b).kwKey = s.kwKey := rfl
@[simp] theorem State.setReg_ir (x : Nibble) (b : Byte) : (s.setReg x b).ir = s.ir := rfl
@[simp] theorem State.setReg_fault (x : Nibble) (b : Byte) : (s.setReg x b).fault = s.fault := rfl
@[simp] theorem State.setReg_faultInfo (x : Nibble) (b : Byte) : (s.setReg x b).faultInfo = s.faultInfo := rfl
@[simp] theorem State.setReg_keysIn (x : Nibble) (b : Byte) : (s.setReg x b).keysIn = s.keysIn := rfl
@[simp] theorem State.setReg_rndIn (x : Nibble) (b : Byte) : (s.setReg x b).rndIn = s.rndIn := rfl
@[simp] theorem State.setReg_host (x : Nibble) (b : Byte) : (s.setReg x b).host = s.host := rfl
@[simp] theorem State.setReg_draws (x : Nibble) (b : Byte) : (s.setReg x b).draws = s.draws := rfl

/-! ### setFlag -/

@[simp] theorem State.setFlag_i (f : Bool) : (s.setFlag f).i = s.i := rfl
@[simp] theorem State.setFlag_pc (f : Bool) : (s.setFlag f).pc = s.pc := rfl
@[simp] theorem State.setFlag_sp (f : Bool) : (s.setFlag f).sp = s.sp := rfl
@[simp] theorem State.setFlag_stack (f : Bool) : (s.setFlag f).stack = s.stack := rfl
@[simp] theorem State.setFlag_dt (f : Bool) : (s.setFlag f).dt = s.dt := rfl
@[simp] theorem State.setFlag_st (f : Bool) : (s.setFlag f).st = s.st := rfl
@[simp] theorem State.setFlag_fb (f : Bool) : (s.setFlag f).fb = s.fb := rfl
@[simp] theorem State.setFlag_mem (f : Bool) : (s.setFlag f).mem = s.mem := rfl
@[simp] theorem State.setFlag_kw (f : Bool) : (s.setFlag f).kw = s.kw := rfl
@[simp] theorem State.setFlag_kwReg (f : Bool) : (s.setFlag f).kwReg = s.kwReg := rfl
@[simp] theorem State.setFlag_kwKey (f : Bool) : (s.setFlag f).kwKey = s.kwKey := rfl
@[simp] theorem State.setFlag_ir (f : Bool) : (s.setFlag f).ir = s.ir := rfl
@[simp] theorem State.setFlag_fault (f : Bool) : (s.setFlag f).fault = s.fault := rfl
@[simp] theorem State.setFlag_faultInfo (f : Bool) : (s.setFlag f).faultInfo = s.faultInfo := rfl
@[simp] theorem State.setFlag_keysIn (f : Bool) : (s.setFlag f).keysIn = s.keysIn := rfl
@[simp] theorem State.setFlag_rndIn (f : Bool) : (s.setFlag f).rndIn = s.rndIn := rfl
@[simp] theorem State.setFlag_host (f : Bool) : (s.setFlag f).host = s.host := rfl
@[simp] theorem State.setFlag_draws (f : Bool) : (s.setFlag f).draws = s.draws := rfl

/-! ### setPc -/

@[simp] theorem State.setPc_v (a : Word) : (s.setPc a).v = s.v := rfl
@[simp] theorem State.setPc_i (a : Word) : (s.setPc a).i = s.i := rfl
@[simp] theorem State.setPc_pc (a : Word) : (s.setPc a).pc = a := rfl
@[simp] theorem State.setPc_sp (a : Word) : (s.setPc a).sp = s.sp := rfl
@[simp] theorem State.setPc_stack (a : Word) : (s.setPc a).stack = s.stack := rfl
@[simp] theorem State.setPc_dt (a : Word) : (s.setPc a).dt = s.dt := rfl
@[simp] theorem State.setPc_st (a : Word) : (s.setPc a).st = s.st := rfl
@[simp] theorem State.setPc_fb (a : Word) : (s.setPc a).fb = s.fb := rfl
@[simp] theorem State.setPc_mem (a : Word) : (s.setPc a).mem = s.mem := rfl
@[simp] theorem State.setPc_kw (a : Word) : (s.setPc a).kw = s.kw := rfl
@[simp] theorem State.setPc_kwReg (a : Word) : (s.setPc a).kwReg = s.kwReg := rfl
@[simp] theorem State.setPc_kwKey (a : Word) : (s.setPc a).kwKey = s.kwKey := rfl
@[simp] theorem State.setPc_ir (a : Word) : (s.setPc a).ir = s.ir := rfl
@[simp] theorem State.setPc_fault (a : Word) : (s.setPc a).fault = s.fault := rfl
@[simp] theorem State.setPc_faultInfo (a : Word) : (s.setPc a).faultInfo = s.faultInfo := rfl
@[simp] theorem State.setPc_keysIn (a : Word) : (s.setPc a).keysIn = s.keysIn := rfl
@[simp] theorem State.setPc_rndIn (a : Word) : (s.setPc a).rndIn = s.rndIn := rfl
@[simp] theorem State.setPc_host (a : Word) : (s.setPc a).host = s.host := rfl
@[simp] theorem State.setPc_draws (a : Word) : (s.setPc a).draws = s.draws := rfl
@[simp] theorem State.setPc_reg (a : Word) (y : Nibble) : (s.setPc a).reg y = s.reg y := rfl

/-! ### advance -/

@[simp] theorem State.advance_v : s.advance.v = s.v := rfl
@[simp] theorem State.advance_i : s.advance.i = s.i := rfl
@[simp] theorem State.advance_pc : s.advance.pc = s.pc + 2#16 := rfl
@[simp] theorem State.advance_sp : s.advance.sp = s.sp := rfl
@[simp] theorem State.advance_stack : s.advance.stack = s.stack := rfl
@[simp] theorem State.advance_dt : s.advance.dt = s.dt := rfl
@[simp] theorem State.advance_st : s.advance.st = s.st := rfl
@[simp] theorem State.advance_fb : s.advance.fb = s.fb := rfl
@[simp] theorem State.advance_mem : s.advance.mem = s.mem := rfl
@[simp] theorem State.advance_kw : s.advance.kw = s.kw := rfl
@[simp] theorem State.advance_kwReg : s.advance.kwReg = s.kwReg := rfl
@[simp] theorem State.advance_kwKey : s.advance.kwKey = s.kwKey := rfl
@[simp] theorem State.advance_ir : s.advance.ir = s.ir := rfl
@[simp] theorem State.advance_fault : s.advance.fault = s.fault := rfl
@[simp] theorem State.advance_faultInfo : s.advance.faultInfo = s.faultInfo := rfl
@[simp] theorem State.advance_keysIn : s.advance.keysIn = s.keysIn := rfl
@[simp] theorem State.advance_rndIn : s.advance.rndIn = s.rndIn := rfl
@[simp] theorem State.advance_host : s.advance.host = s.host := rfl
@[simp] theorem State.advance_draws : s.advance.draws = s.draws := rfl
@[simp] theorem State.advance_reg (y : Nibble) : s.advance.reg y = s.reg y := rfl

/-! ### skipIf -/

@[simp] theorem State.skipIf_v (c : Bool) : (s.skipIf c).v = s.v := rfl
@[simp] theorem State.skipIf_i (c : Bool) : (s.skipIf c).i = s.i := rfl
@[simp] theorem State.skipIf_pc (c : Bool) : (s.skipIf c).pc = if c then s.pc + 4#16 else s.pc + 2#16 := rfl
@[simp] theorem State.skipIf_sp (c : Bool) : (s.skipIf c).sp = s.sp := rfl
@[simp] theorem State.skipIf_stack (c : Bool) : (s.skipIf c).stack = s.stack := rfl
@[simp] theorem State.skipIf_dt (c : Bool) : (s.skipIf c).dt = s.dt := rfl
@[simp] theorem State.skipIf_st (c : Bool) : (s.skipIf c).st = s.st := rfl
@[simp] theorem State.skipIf_fb (c : Bool) : (s.skipIf c).fb = s.fb := rfl
@[simp] theorem State.skipIf_mem (c : Bool) : (s.skipIf c).mem = s.mem := rfl
@[simp] theorem State.skipIf_kw (c : Bool) : (s.skipIf c).kw = s.kw := rfl
@[simp] theorem State.skipIf_kwReg (c : Bool) : (s.skipIf c).kwReg = s.kwReg := rfl
@[simp] theorem State.skipIf_kwKey (c : Bool) : (s.skipIf c).kwKey = s.kwKey := rfl
@[simp] theorem State.skipIf_ir (c : Bool) : (s.skipIf c).ir = s.ir := rfl
@[simp] theorem State.skipIf_fault (c : Bool) : (s.skipIf c).fault = s.fault := rfl
@[simp] theorem State.skipIf_faultInfo (c : Bool) : (s.skipIf c).faultInfo = s.faultInfo := rfl
@[simp] theorem State.skipIf_keysIn (c : Bool) : (s.skipIf c).keysIn = s.keysIn := rfl
@[simp] theorem State.skipIf_rndIn (c : Bool) : (s.skipIf c).rndIn = s.rndIn := rfl
@[simp] theorem State.skipIf_host (c : Bool) : (s.skipIf c).host = s.host := rfl
@[simp] theorem State.skipIf_draws (c : Bool) : (s.skipIf c).draws = s.draws := rfl
@[simp] theorem State.skipIf_reg (c : Bool) (y : Nibble) : (s.skipIf c).reg y = s.reg y := rfl

/-! ### setI -/

@[simp] theorem State.setI_v (a : Word) : (s.setI a).v = s.v := rfl
@[simp] theorem State.setI_i (a : Word) : (s.setI a).i = a := rfl
@[simp] theorem State.setI_pc (a : Word) : (s.setI a).pc = s.pc := rfl
@[simp] theorem State.setI_sp (a : Word) : (s.setI a).sp = s.sp := rfl
@[simp] theorem State.setI_stack (a : Word) : (s.setI a).stack = s.stack := rfl
@[simp] theorem State.setI_dt (a : Word) : (s.setI a).dt = s.dt := rfl
@[simp] theorem State.setI_st (a : Word) : (s.setI a).st = s.st := rfl
@[simp] theorem State.setI_fb (a : Word) : (s.setI a).fb = s.fb := rfl
@[simp] theorem State.setI_mem (a : Word) : (s.setI a).mem = s.mem := rfl
@[simp] theorem State.setI_kw (a : Word) : (s.setI a).kw = s.kw := rfl
@[simp] theorem State.setI_kwReg (a : Word) : (s.setI a).kwReg = s.kwReg := rfl
@[simp] theorem State.setI_kwKey (a : Word) : (s.setI a).kwKey = s.kwKey := rfl
@[simp] theorem State.setI_ir (a : Word) : (s.setI a).ir = s.ir := rfl
@[simp] theorem State.setI_fault (a : Word) : (s.setI a).fault = s.fault := rfl
@[simp] theorem State.setI_faultInfo (a : Word) : (s.setI a).faultInfo = s.faultInfo := rfl
@[simp] theorem State.setI_keysIn (a : Word) : (s.setI a).keysIn = s.keysIn := rfl
@[simp] theorem State.setI_rndIn (a : Word) : (s.setI a).rndIn = s.rndIn := rfl
@[simp] theorem State.setI_host (a : Word) : (s.setI a).host = s.host := rfl
@[simp] theorem State.setI_draws (a : Word) : (s.setI a).draws = s.draws := rfl
@[simp] theorem State.setI_reg (a : Word) (y : Nibble) : (s.setI a).reg y = s.reg y := rfl

/-! ### setDt -/

@[simp] theorem State.setDt_v (b : Byte) : (s.setDt b).v = s.v := rfl
@[simp] theorem State.setDt_i (b : Byte) : (s.setDt b).i = s.i := rfl
@[simp] theorem State.setDt_pc (b : Byte) : (s.setDt b).pc = s.pc := rfl
@[simp] theorem State.setDt_sp (b : Byte) : (s.setDt b).sp = s.sp := rfl
@[simp] theorem State.setDt_stack (b : Byte) : (s.setDt b).stack = s.stack := rfl
@[simp] theorem State.setDt_dt (b : Byte) : (s.setDt b).dt = b := rfl
@[simp] theorem State.setDt_st (b : Byte) : (s.setDt b).st = s.st := rfl
@[simp] theorem State.setDt_fb (b : Byte) : (s.setDt b).fb = s.fb := rfl
@[simp] theorem State.setDt_mem (b : Byte) : (s.setDt b).mem = s.mem := rfl
@[simp] theorem State.setDt_kw (b : Byte) : (s.setDt b).kw = s.kw := rfl
@[simp] theorem State.setDt_kwReg (b : Byte) : (s.setDt b).kwReg = s.kwReg := rfl
@[simp] theorem State.setDt_kwKey (b : Byte) : (s.setDt b).kwKey = s.kwKey := rfl
@[simp] theorem State.setDt_ir (b : Byte) : (s.setDt b).ir = s.ir := rfl
@[simp] theorem State.setDt_fault (b : Byte) : (s.setDt b).fault = s.fault := rfl
@[simp] theorem State.setDt_faultInfo (b : Byte) : (s.setDt b).faultInfo = s.faultInfo := rfl
@[simp] theorem State.setDt_keysIn (b : Byte) : (s.setDt b).keysIn = s.keysIn := rfl
@[simp] theorem State.setDt_rndIn (b : Byte) : (s.setDt b).rndIn = s.rndIn := rfl
@[simp] theorem State.setDt_host (b : Byte) : (s.setDt b).host = s.host := rfl
@[simp] theorem State.setDt_draws (b : Byte) : (s.setDt b).draws = s.draws := rfl
@[simp] theorem State.setDt_reg (b : Byte) (y : Nibble) : (s.setDt b).reg y = s.reg y := rfl

/-! ### setSt -/

@[simp] theorem State.setSt_v (b : Byte) : (s.setSt b).v = s.v := rfl
@[simp] theorem State.setSt_i (b : Byte) : (s.setSt b).i = s.i := rfl
@[simp] theorem State.setSt_pc (b : Byte) : (s.setSt b).pc = s.pc := rfl
@[simp] theorem State.setSt_sp (b : Byte) : (s.setSt b).sp = s.sp := rfl
@[simp] theorem State.setSt_stack (b : Byte) : (s.setSt b).stack = s.stack := rfl
@[simp] theorem State.setSt_dt (b : Byte) : (s.setSt b).dt = s.dt := rfl
@[simp] theorem State.setSt_st (b : Byte) : (s.setSt b).st = b := rfl
@[simp] theorem State.setSt_fb (b : Byte) : (s.setSt b).fb = s.fb := rfl
@[simp] theorem State.setSt_mem (b : Byte) : (s.setSt b).mem = s.mem := rfl
@[simp] theorem State.setSt_kw (b : Byte) : (s.setSt b).kw = s.kw := rfl
@[simp] theorem State.setSt_kwReg (b : Byte) : (s.setSt b).kwReg = s.kwReg := rfl
@[simp] theorem State.setSt_kwKey (b : Byte) : (s.setSt b).kwKey = s.kwKey := rfl
@[simp] theorem State.setSt_ir (b : Byte) : (s.setSt b).ir = s.ir := rfl
@[simp] theorem State.setSt_fault (b : Byte) : (s.setSt b).fault = s.fault := rfl
@[simp] theorem State.setSt_faultInfo (b : Byte) : (s.setSt b).faultInfo = s.faultInfo := rfl
@[simp] theorem State.setSt_keysIn (b : Byte) : (s.setSt b).keysIn = s.keysIn := rfl
@[simp] theorem State.setSt_rndIn (b : Byte) : (s.setSt b).rndIn = s.rndIn := rfl
@[simp] theorem State.setSt_host (b : Byte) : (s.setSt b).host = s.host := rfl
@[simp] theorem State.setSt_draws (b : Byte) : (s.setSt b).draws = s.draws := rfl
@[simp] theorem State.setSt_reg (b : Byte) (y : Nibble) : (s.setSt b).reg y = s.reg y := rfl

/-! ### storeBytes -/

@[simp] theorem State.storeBytes_v (a : Nat) (bs : List Byte) : (s.storeBytes a bs).v = s.v := rfl
@[simp] theorem State.storeBytes_i (a : Nat) (bs : List Byte) : (s.storeBytes a bs).i = s.i := rfl
@[simp] theorem State.storeBytes_pc (a : Nat) (bs : List Byte) : (s.storeBytes a bs).pc = s.pc := rfl
@[simp] theorem State.storeBytes_sp (a : Nat) (bs : List Byte) : (s.storeBytes a bs).sp = s.sp := rfl
@[simp] theorem State.storeBytes_stack (a : Nat) (bs : List Byte) : (s.storeBytes a bs).stack = s.stack := rfl
@[simp] theorem State.storeBytes_dt (a : Nat) (bs : List Byte) : (s.storeBytes a bs).dt = s.dt := rfl
@[simp] theorem State.storeBytes_st (a : Nat) (bs : List Byte) : (s.storeBytes a bs).st = s.st := rfl
@[simp] theorem State.storeBytes_fb (a : Nat) (bs : List Byte) : (s.storeBytes a bs).fb = s.fb := rfl
@[simp] theorem State.storeBytes_mem (a : Nat) (bs : List Byte) : (s.storeBytes a bs).mem = s.mem.writeBytes a bs := rfl
@[simp] theorem State.storeBytes_kw (a : Nat) (bs : List Byte) : (s.storeBytes a bs).kw = s.kw := rfl
@[simp] theorem State.storeBytes_kwReg (a : Nat) (bs : List Byte) : (s.storeBytes a bs).kwReg = s.kwReg := rfl
@[simp] theorem State.storeBytes_kwKey (a : Nat) (bs : List Byte) : (s.storeBytes a bs).kwKey = s.kwKey := rfl
@[simp] theorem State.storeBytes_ir (a : Nat) (bs : List Byte) : (s.storeBytes a bs).ir = s.ir := rfl
@[simp] theorem State.storeBytes_fault (a : Nat) (bs : List Byte) : (s.storeBytes a bs).fault = s.fault := rfl
@[simp] theorem State.storeBytes_faultInfo (a : Nat) (bs : List Byte) : (s.storeBytes a bs).faultInfo = s.faultInfo := rfl
@[simp] theorem State.storeBytes_keysIn (a : Nat) (bs : List Byte) : (s.storeBytes a bs).keysIn = s.keysIn := rfl
@[simp] theorem State.storeBytes_rndIn (a : Nat) (bs : List Byte) : (s.storeBytes a bs).rndIn = s.rndIn := rfl
@[simp] theorem State.storeBytes_host (a : Nat) (bs : List Byte) : (s.storeBytes a bs).host = s.host := rfl
@[simp] theorem State.storeBytes_draws (a : Nat) (bs : List Byte) : (s.storeBytes a bs).draws = s.draws := rfl
@[simp] theorem State.storeBytes_reg (a : Nat) (bs : List Byte) (y : Nibble) : (s.storeBytes a bs).reg y = s.reg y := rfl

/-! ### loadFromI -/

@[simp] theorem State.loadFromI_i (n : Nat) : (s.loadFromI n).i = s.i := rfl
@[simp] theorem State.loadFromI_pc (n : Nat) : (s.loadFromI n).pc = s.pc := rfl
@[simp] theorem State.loadFromI_sp (n : Nat) : (s.loadFromI n).sp = s.sp := rfl
@[simp] theorem State.loadFromI_stack (n : Nat) : (s.loadFromI n).stack = s.stack := rfl
@[simp] theorem State.loadFromI_dt (n : Nat) : (s.loadFromI n).dt = s.dt := rfl
@[simp] theorem State.loadFromI_st (n : Nat) : (s.loadFromI n).st = s.st := rfl
@[simp] theorem State.loadFromI_fb (n : Nat) : (s.loadFromI n).fb = s.fb := rfl
@[simp] theorem State.loadFromI_mem (n : Nat) : (s.loadFromI n).mem = s.mem := rfl
@[simp] theorem State.loadFromI_kw (n : Nat) : (s.loadFromI n).kw = s.kw := rfl
@[simp] theorem State.loadFromI_kwReg (n : Nat) : (s.loadFromI n).kwReg = s.kwReg := rfl
@[simp] theorem State.loadFromI_kwKey (n : Nat) : (s.loadFromI n).kwKey = s.kwKey := rfl
@[simp] theorem State.loadFromI_ir (n : Nat) : (s.loadFromI n).ir = s.ir := rfl
@[simp] theorem State.loadFromI_fault (n : Nat) : (s.loadFromI n).fault = s.fault := rfl
@[simp] theorem State.loadFromI_faultInfo (n : Nat) : (s.loadFromI n).faultInfo = s.faultInfo := rfl
@[simp] theorem State.loadFromI_keysIn (n : Nat) : (s.loadFromI n).keysIn = s.keysIn := rfl
@[simp] theorem State.loadFromI_rndIn (n : Nat) : (s.loadFromI n).rndIn = s.rndIn := rfl
@[simp] theorem State.loadFromI_host (n : Nat) : (s.loadFromI n).host = s.host := rfl
@[simp] theorem State.loadFromI_draws (n : Nat) : (s.loadFromI n).draws = s.draws := rfl

/-! ### push -/

@[simp] theorem State.push_v (a : Word) (h : s.sp.toNat < 16) : (s.push a h).v = s.v := rfl
@[simp] theorem State.push_i (a : Word) (h : s.sp.toNat < 16) : (s.push a h).i = s.i := rfl
@[simp] theorem State.push_pc (a : Word) (h : s.sp.toNat < 16) : (s.push a h).pc = s.pc := rfl
@[simp] theorem State.push_sp (a : Word) (h : s.sp.toNat < 16) : (s.push a h).sp = s.sp + 1#5 := rfl
@[simp] theorem State.push_stack (a : Word) (h : s.sp.toNat < 16) : (s.push a h).stack = s.stack.set s.sp.toNat a := rfl
@[simp] theorem State.push_dt (a : Word) (h : s.sp.toNat < 16) : (s.push a h).dt = s.dt := rfl
@[simp] theorem State.push_st (a : Word) (h : s.sp.toNat < 16) : (s.push a h).st = s.st := rfl
@[simp] theorem State.push_fb (a : Word) (h : s.sp.toNat < 16) : (s.push a h).fb = s.fb := rfl
@[simp] theorem State.push_mem (a : Word) (h : s.sp.toNat < 16) : (s.push a h).mem = s.mem := rfl
@[simp] theorem State.push_kw (a : Word) (h : s.sp.toNat < 16) : (s.push a h).kw = s.kw := rfl
@[simp] theorem State.push_kwReg (a : Word) (h : s.sp.toNat < 16) : (s.push a h).kwReg = s.kwReg := rfl
@[simp] theorem State.push_kwKey (a : Word) (h : s.sp.toNat < 16) : (s.push a h).kwKey = s.kwKey := rfl
@[simp] theorem State.push_ir (a : Word) (h : s.sp.toNat < 16) : (s.push a h).ir = s.ir := rfl
@[simp] theorem State.push_fault (a : Word) (h : s.sp.toNat < 16) : (s.push a h).fault = s.fault := rfl
@[simp] theorem State.push_faultInfo (a : Word) (h : s.sp.toNat < 16) : (s.push a h).faultInfo = s.faultInfo := rfl
@[simp] theorem State.push_keysIn (a : Word) (h : s.sp.toNat < 16) : (s.push a h).keysIn = s.keysIn := rfl
@[simp] theorem State.push_rndIn (a : Word) (h : s.sp.toNat < 16) : (s.push a h).rndIn = s.rndIn := rfl
@[simp] theorem State.push_host (a : Word) (h : s.sp.toNat < 16) : (s.push a h).host = s.host := rfl
@[simp] theorem State.push_draws (a : Word) (h : s.sp.toNat < 16) : (s.push a h).draws = s.draws := rfl
@[simp] theorem State.push_reg (a : Word) (h : s.sp.toNat < 16) (y : Nibble) : (s.push a h).reg y = s.reg y := rfl

/-! ### pop -/

@[simp] theorem State.pop_v : s.pop.v = s.v := rfl
@[simp] theorem State.pop_i : s.pop.i = s.i := rfl
@[simp] theorem State.pop_pc : s.pop.pc = s.pc := rfl
@[simp] theorem State.pop_sp : s.pop.sp = s.sp - 1#5 := rfl
@[simp] theorem State.pop_stack : s.pop.stack = s.stack := rfl
@[simp] theorem State.pop_dt : s.pop.dt = s.dt := rfl
@[simp] theorem State.pop_st : s.pop.st = s.st := rfl
@[simp] theorem State.pop_fb : s.pop.fb = s.fb := rfl
@[simp] theorem State.pop_mem : s.pop.mem = s.mem := rfl
@[simp] theorem State.pop_kw : s.pop.kw = s.kw := rfl
@[simp] theorem State.pop_kwReg : s.pop.kwReg = s.kwReg := rfl
@[simp] theorem State.pop_kwKey : s.pop.kwKey = s.kwKey := rfl
@[simp] theorem State.pop_ir : s.pop.ir = s.ir := rfl
@[simp] theorem State.pop_fault : s.pop.fault = s.fault := rfl
@[simp] theorem State.pop_faultInfo : s.pop.faultInfo = s.faultInfo := rfl
@[simp] theorem State.pop_keysIn : s.pop.keysIn = s.keysIn := rfl
@[simp] theorem State.pop_rndIn : s.pop.rndIn = s.rndIn := rfl
@[simp] theorem State.pop_host : s.pop.host = s.host := rfl
@[simp] theorem State.pop_draws : s.pop.draws = s.draws := rfl
@[simp] theorem State.pop_reg (y : Nibble) : s.pop.reg y = s.reg y := rfl

/-! ### raise -/

@[simp] theorem State.raise_v (c : FaultCode) (o : Option Word) (e : Option (BitVec 17)) : (s.raise c o e).v = s.v := rfl
@[simp] theorem State.raise_i (c : FaultCode) (o : Option Word) (e : Option (BitVec 17)) : (s.raise c o e).i = s.i := rfl
@[simp] theorem State.raise_pc (c : FaultCode) (o : Option Word) (e : Option (BitVec 17)) : (s.raise c o e).pc = s.pc := rfl
@[simp] theorem State.raise_sp (c : FaultCode) (o : Option Word) (e : Option (BitVec 17)) : (s.raise c o e).sp = s.sp := rfl
@[simp] theorem State.raise_stack (c : FaultCode) (o : Option Word) (e : Option (BitVec 17)) : (s.raise c o e).stack = s.stack := rfl
@[simp] theorem State.raise_dt (c : FaultCode) (o : Option Word) (e : Option (BitVec 17)) : (s.raise c o e).dt = s.dt := rfl
@[simp] theorem State.raise_st (c : FaultCode) (o : Option Word) (e : Option (BitVec 17)) : (s.raise c o e).st = s.st := rfl
@[simp] theorem State.raise_fb (c : FaultCode) (o : Option Word) (e : Option (BitVec 17)) : (s.raise c o e).fb = s.fb := rfl
@[simp] theorem State.raise_mem (c : FaultCode) (o : Option Word) (e : Option (BitVec 17)) : (s.raise c o e).mem = s.mem := rfl
@[simp] theorem State.raise_kw (c : FaultCode) (o : Option Word) (e : Option (BitVec 17)) : (s.raise c o e).kw = s.kw := rfl
@[simp] theorem State.raise_kwReg (c : FaultCode) (o : Option Word) (e : Option (BitVec 17)) : (s.raise c o e).kwReg = s.kwReg := rfl
@[simp] theorem State.raise_kwKey (c : FaultCode) (o : Option Word) (e : Option (BitVec 17)) : (s.raise c o e).kwKey = s.kwKey := rfl
@[simp] theorem State.raise_ir (c : FaultCode) (o : Option Word) (e : Option (BitVec 17)) : (s.raise c o e).ir = s.ir := rfl
@[simp] theorem State.raise_fault (c : FaultCode) (o : Option Word) (e : Option (BitVec 17)) : (s.raise c o e).fault = c := rfl
@[simp] theorem State.raise_faultInfo (c : FaultCode) (o : Option Word) (e : Option (BitVec 17)) : (s.raise c o e).faultInfo = ⟨s.pc, o.getD (Config.unspecifiedOpcode s.draws), e.getD (Config.unspecifiedEa s.draws)⟩ := rfl
@[simp] theorem State.raise_keysIn (c : FaultCode) (o : Option Word) (e : Option (BitVec 17)) : (s.raise c o e).keysIn = s.keysIn := rfl
@[simp] theorem State.raise_rndIn (c : FaultCode) (o : Option Word) (e : Option (BitVec 17)) : (s.raise c o e).rndIn = s.rndIn := rfl
@[simp] theorem State.raise_host (c : FaultCode) (o : Option Word) (e : Option (BitVec 17)) : (s.raise c o e).host = s.host := rfl
@[simp] theorem State.raise_draws (c : FaultCode) (o : Option Word) (e : Option (BitVec 17)) : (s.raise c o e).draws = s.draws + 1 := rfl
@[simp] theorem State.raise_reg (c : FaultCode) (o : Option Word) (e : Option (BitVec 17)) (y : Nibble) : (s.raise c o e).reg y = s.reg y := rfl

/-! ### raiseOpcode -/

@[simp] theorem State.raiseOpcode_v (c : FaultCode) : (s.raiseOpcode c).v = s.v := rfl
@[simp] theorem State.raiseOpcode_i (c : FaultCode) : (s.raiseOpcode c).i = s.i := rfl
@[simp] theorem State.raiseOpcode_pc (c : FaultCode) : (s.raiseOpcode c).pc = s.pc := rfl
@[simp] theorem State.raiseOpcode_sp (c : FaultCode) : (s.raiseOpcode c).sp = s.sp := rfl
@[simp] theorem State.raiseOpcode_stack (c : FaultCode) : (s.raiseOpcode c).stack = s.stack := rfl
@[simp] theorem State.raiseOpcode_dt (c : FaultCode) : (s.raiseOpcode c).dt = s.dt := rfl
@[simp] theorem State.raiseOpcode_st (c : FaultCode) : (s.raiseOpcode c).st = s.st := rfl
@[simp] theorem State.raiseOpcode_fb (c : FaultCode) : (s.raiseOpcode c).fb = s.fb := rfl
@[simp] theorem State.raiseOpcode_mem (c : FaultCode) : (s.raiseOpcode c).mem = s.mem := rfl
@[simp] theorem State.raiseOpcode_kw (c : FaultCode) : (s.raiseOpcode c).kw = s.kw := rfl
@[simp] theorem State.raiseOpcode_kwReg (c : FaultCode) : (s.raiseOpcode c).kwReg = s.kwReg := rfl
@[simp] theorem State.raiseOpcode_kwKey (c : FaultCode) : (s.raiseOpcode c).kwKey = s.kwKey := rfl
@[simp] theorem State.raiseOpcode_ir (c : FaultCode) : (s.raiseOpcode c).ir = s.ir := rfl
@[simp] theorem State.raiseOpcode_fault (c : FaultCode) : (s.raiseOpcode c).fault = c := rfl
@[simp] theorem State.raiseOpcode_faultInfo (c : FaultCode) : (s.raiseOpcode c).faultInfo = ⟨s.pc, s.ir, Config.unspecifiedEa s.draws⟩ := rfl
@[simp] theorem State.raiseOpcode_keysIn (c : FaultCode) : (s.raiseOpcode c).keysIn = s.keysIn := rfl
@[simp] theorem State.raiseOpcode_rndIn (c : FaultCode) : (s.raiseOpcode c).rndIn = s.rndIn := rfl
@[simp] theorem State.raiseOpcode_host (c : FaultCode) : (s.raiseOpcode c).host = s.host := rfl
@[simp] theorem State.raiseOpcode_draws (c : FaultCode) : (s.raiseOpcode c).draws = s.draws + 1 := rfl
@[simp] theorem State.raiseOpcode_reg (c : FaultCode) (y : Nibble) : (s.raiseOpcode c).reg y = s.reg y := rfl

/-! ### raiseAddress -/

@[simp] theorem State.raiseAddress_v : s.raiseAddress.v = s.v := rfl
@[simp] theorem State.raiseAddress_i : s.raiseAddress.i = s.i := rfl
@[simp] theorem State.raiseAddress_pc : s.raiseAddress.pc = s.pc := rfl
@[simp] theorem State.raiseAddress_sp : s.raiseAddress.sp = s.sp := rfl
@[simp] theorem State.raiseAddress_stack : s.raiseAddress.stack = s.stack := rfl
@[simp] theorem State.raiseAddress_dt : s.raiseAddress.dt = s.dt := rfl
@[simp] theorem State.raiseAddress_st : s.raiseAddress.st = s.st := rfl
@[simp] theorem State.raiseAddress_fb : s.raiseAddress.fb = s.fb := rfl
@[simp] theorem State.raiseAddress_mem : s.raiseAddress.mem = s.mem := rfl
@[simp] theorem State.raiseAddress_kw : s.raiseAddress.kw = s.kw := rfl
@[simp] theorem State.raiseAddress_kwReg : s.raiseAddress.kwReg = s.kwReg := rfl
@[simp] theorem State.raiseAddress_kwKey : s.raiseAddress.kwKey = s.kwKey := rfl
@[simp] theorem State.raiseAddress_ir : s.raiseAddress.ir = s.ir := rfl
@[simp] theorem State.raiseAddress_fault : s.raiseAddress.fault = .addressOutOfRange := rfl
@[simp] theorem State.raiseAddress_faultInfo : s.raiseAddress.faultInfo = ⟨s.pc, s.ir, s.offendingAddress⟩ := rfl
@[simp] theorem State.raiseAddress_keysIn : s.raiseAddress.keysIn = s.keysIn := rfl
@[simp] theorem State.raiseAddress_rndIn : s.raiseAddress.rndIn = s.rndIn := rfl
@[simp] theorem State.raiseAddress_host : s.raiseAddress.host = s.host := rfl
@[simp] theorem State.raiseAddress_draws : s.raiseAddress.draws = s.draws + 1 := rfl
@[simp] theorem State.raiseAddress_reg (y : Nibble) : s.raiseAddress.reg y = s.reg y := rfl

/-! ### raiseFetch -/

@[simp] theorem State.raiseFetch_v : s.raiseFetch.v = s.v := rfl
@[simp] theorem State.raiseFetch_i : s.raiseFetch.i = s.i := rfl
@[simp] theorem State.raiseFetch_pc : s.raiseFetch.pc = s.pc := rfl
@[simp] theorem State.raiseFetch_sp : s.raiseFetch.sp = s.sp := rfl
@[simp] theorem State.raiseFetch_stack : s.raiseFetch.stack = s.stack := rfl
@[simp] theorem State.raiseFetch_dt : s.raiseFetch.dt = s.dt := rfl
@[simp] theorem State.raiseFetch_st : s.raiseFetch.st = s.st := rfl
@[simp] theorem State.raiseFetch_fb : s.raiseFetch.fb = s.fb := rfl
@[simp] theorem State.raiseFetch_mem : s.raiseFetch.mem = s.mem := rfl
@[simp] theorem State.raiseFetch_kw : s.raiseFetch.kw = s.kw := rfl
@[simp] theorem State.raiseFetch_kwReg : s.raiseFetch.kwReg = s.kwReg := rfl
@[simp] theorem State.raiseFetch_kwKey : s.raiseFetch.kwKey = s.kwKey := rfl
@[simp] theorem State.raiseFetch_ir : s.raiseFetch.ir = s.ir := rfl
@[simp] theorem State.raiseFetch_fault : s.raiseFetch.fault = .fetchOutOfRange := rfl
@[simp] theorem State.raiseFetch_faultInfo : s.raiseFetch.faultInfo = ⟨s.pc, Config.unspecifiedOpcode s.draws, Config.unspecifiedEa s.draws⟩ := rfl
@[simp] theorem State.raiseFetch_keysIn : s.raiseFetch.keysIn = s.keysIn := rfl
@[simp] theorem State.raiseFetch_rndIn : s.raiseFetch.rndIn = s.rndIn := rfl
@[simp] theorem State.raiseFetch_host : s.raiseFetch.host = s.host := rfl
@[simp] theorem State.raiseFetch_draws : s.raiseFetch.draws = s.draws + 1 := rfl
@[simp] theorem State.raiseFetch_reg (y : Nibble) : s.raiseFetch.reg y = s.reg y := rfl

/-! ### setFb -/

@[simp] theorem State.setFb_v (fb : Framebuffer) : (s.setFb fb).v = s.v := rfl
@[simp] theorem State.setFb_i (fb : Framebuffer) : (s.setFb fb).i = s.i := rfl
@[simp] theorem State.setFb_pc (fb : Framebuffer) : (s.setFb fb).pc = s.pc := rfl
@[simp] theorem State.setFb_sp (fb : Framebuffer) : (s.setFb fb).sp = s.sp := rfl
@[simp] theorem State.setFb_stack (fb : Framebuffer) : (s.setFb fb).stack = s.stack := rfl
@[simp] theorem State.setFb_dt (fb : Framebuffer) : (s.setFb fb).dt = s.dt := rfl
@[simp] theorem State.setFb_st (fb : Framebuffer) : (s.setFb fb).st = s.st := rfl
@[simp] theorem State.setFb_fb (fb : Framebuffer) : (s.setFb fb).fb = fb := rfl
@[simp] theorem State.setFb_mem (fb : Framebuffer) : (s.setFb fb).mem = s.mem := rfl
@[simp] theorem State.setFb_kw (fb : Framebuffer) : (s.setFb fb).kw = s.kw := rfl
@[simp] theorem State.setFb_kwReg (fb : Framebuffer) : (s.setFb fb).kwReg = s.kwReg := rfl
@[simp] theorem State.setFb_kwKey (fb : Framebuffer) : (s.setFb fb).kwKey = s.kwKey := rfl
@[simp] theorem State.setFb_ir (fb : Framebuffer) : (s.setFb fb).ir = s.ir := rfl
@[simp] theorem State.setFb_fault (fb : Framebuffer) : (s.setFb fb).fault = s.fault := rfl
@[simp] theorem State.setFb_faultInfo (fb : Framebuffer) : (s.setFb fb).faultInfo = s.faultInfo := rfl
@[simp] theorem State.setFb_keysIn (fb : Framebuffer) : (s.setFb fb).keysIn = s.keysIn := rfl
@[simp] theorem State.setFb_rndIn (fb : Framebuffer) : (s.setFb fb).rndIn = s.rndIn := rfl
@[simp] theorem State.setFb_host (fb : Framebuffer) : (s.setFb fb).host = s.host := rfl
@[simp] theorem State.setFb_draws (fb : Framebuffer) : (s.setFb fb).draws = s.draws := rfl
@[simp] theorem State.setFb_reg (fb : Framebuffer) (y : Nibble) : (s.setFb fb).reg y = s.reg y := rfl

/-! ### enterWait -/

@[simp] theorem State.enterWait_v (x : Nibble) : (s.enterWait x).v = s.v := rfl
@[simp] theorem State.enterWait_i (x : Nibble) : (s.enterWait x).i = s.i := rfl
@[simp] theorem State.enterWait_pc (x : Nibble) : (s.enterWait x).pc = s.pc := rfl
@[simp] theorem State.enterWait_sp (x : Nibble) : (s.enterWait x).sp = s.sp := rfl
@[simp] theorem State.enterWait_stack (x : Nibble) : (s.enterWait x).stack = s.stack := rfl
@[simp] theorem State.enterWait_dt (x : Nibble) : (s.enterWait x).dt = s.dt := rfl
@[simp] theorem State.enterWait_st (x : Nibble) : (s.enterWait x).st = s.st := rfl
@[simp] theorem State.enterWait_fb (x : Nibble) : (s.enterWait x).fb = s.fb := rfl
@[simp] theorem State.enterWait_mem (x : Nibble) : (s.enterWait x).mem = s.mem := rfl
@[simp] theorem State.enterWait_kw (x : Nibble) : (s.enterWait x).kw = .awaitingPress := rfl
@[simp] theorem State.enterWait_kwReg (x : Nibble) : (s.enterWait x).kwReg = x := rfl
@[simp] theorem State.enterWait_kwKey (x : Nibble) : (s.enterWait x).kwKey = s.kwKey := rfl
@[simp] theorem State.enterWait_ir (x : Nibble) : (s.enterWait x).ir = s.ir := rfl
@[simp] theorem State.enterWait_fault (x : Nibble) : (s.enterWait x).fault = s.fault := rfl
@[simp] theorem State.enterWait_faultInfo (x : Nibble) : (s.enterWait x).faultInfo = s.faultInfo := rfl
@[simp] theorem State.enterWait_keysIn (x : Nibble) : (s.enterWait x).keysIn = s.keysIn := rfl
@[simp] theorem State.enterWait_rndIn (x : Nibble) : (s.enterWait x).rndIn = s.rndIn := rfl
@[simp] theorem State.enterWait_host (x : Nibble) : (s.enterWait x).host = s.host := rfl
@[simp] theorem State.enterWait_draws (x : Nibble) : (s.enterWait x).draws = s.draws := rfl
@[simp] theorem State.enterWait_reg (x : Nibble) (y : Nibble) : (s.enterWait x).reg y = s.reg y := rfl

/-! ### present -/

@[simp] theorem State.present_v (k : BitVec 16) (r : Byte) : (s.present k r).v = s.v := rfl
@[simp] theorem State.present_i (k : BitVec 16) (r : Byte) : (s.present k r).i = s.i := rfl
@[simp] theorem State.present_pc (k : BitVec 16) (r : Byte) : (s.present k r).pc = s.pc := rfl
@[simp] theorem State.present_sp (k : BitVec 16) (r : Byte) : (s.present k r).sp = s.sp := rfl
@[simp] theorem State.present_stack (k : BitVec 16) (r : Byte) : (s.present k r).stack = s.stack := rfl
@[simp] theorem State.present_dt (k : BitVec 16) (r : Byte) : (s.present k r).dt = s.dt := rfl
@[simp] theorem State.present_st (k : BitVec 16) (r : Byte) : (s.present k r).st = s.st := rfl
@[simp] theorem State.present_fb (k : BitVec 16) (r : Byte) : (s.present k r).fb = s.fb := rfl
@[simp] theorem State.present_mem (k : BitVec 16) (r : Byte) : (s.present k r).mem = s.mem := rfl
@[simp] theorem State.present_kw (k : BitVec 16) (r : Byte) : (s.present k r).kw = s.kw := rfl
@[simp] theorem State.present_kwReg (k : BitVec 16) (r : Byte) : (s.present k r).kwReg = s.kwReg := rfl
@[simp] theorem State.present_kwKey (k : BitVec 16) (r : Byte) : (s.present k r).kwKey = s.kwKey := rfl
@[simp] theorem State.present_ir (k : BitVec 16) (r : Byte) : (s.present k r).ir = s.ir := rfl
@[simp] theorem State.present_fault (k : BitVec 16) (r : Byte) : (s.present k r).fault = s.fault := rfl
@[simp] theorem State.present_faultInfo (k : BitVec 16) (r : Byte) : (s.present k r).faultInfo = s.faultInfo := rfl
@[simp] theorem State.present_keysIn (k : BitVec 16) (r : Byte) : (s.present k r).keysIn = k := rfl
@[simp] theorem State.present_rndIn (k : BitVec 16) (r : Byte) : (s.present k r).rndIn = r := rfl
@[simp] theorem State.present_host (k : BitVec 16) (r : Byte) : (s.present k r).host = s.host := rfl
@[simp] theorem State.present_draws (k : BitVec 16) (r : Byte) : (s.present k r).draws = s.draws := rfl
@[simp] theorem State.present_reg (k : BitVec 16) (r : Byte) (y : Nibble) : (s.present k r).reg y = s.reg y := rfl

/-! ### latchIr -/

@[simp] theorem State.latchIr_v (w : Word) : (s.latchIr w).v = s.v := rfl
@[simp] theorem State.latchIr_i (w : Word) : (s.latchIr w).i = s.i := rfl
@[simp] theorem State.latchIr_pc (w : Word) : (s.latchIr w).pc = s.pc := rfl
@[simp] theorem State.latchIr_sp (w : Word) : (s.latchIr w).sp = s.sp := rfl
@[simp] theorem State.latchIr_stack (w : Word) : (s.latchIr w).stack = s.stack := rfl
@[simp] theorem State.latchIr_dt (w : Word) : (s.latchIr w).dt = s.dt := rfl
@[simp] theorem State.latchIr_st (w : Word) : (s.latchIr w).st = s.st := rfl
@[simp] theorem State.latchIr_fb (w : Word) : (s.latchIr w).fb = s.fb := rfl
@[simp] theorem State.latchIr_mem (w : Word) : (s.latchIr w).mem = s.mem := rfl
@[simp] theorem State.latchIr_kw (w : Word) : (s.latchIr w).kw = s.kw := rfl
@[simp] theorem State.latchIr_kwReg (w : Word) : (s.latchIr w).kwReg = s.kwReg := rfl
@[simp] theorem State.latchIr_kwKey (w : Word) : (s.latchIr w).kwKey = s.kwKey := rfl
@[simp] theorem State.latchIr_ir (w : Word) : (s.latchIr w).ir = w := rfl
@[simp] theorem State.latchIr_fault (w : Word) : (s.latchIr w).fault = s.fault := rfl
@[simp] theorem State.latchIr_faultInfo (w : Word) : (s.latchIr w).faultInfo = s.faultInfo := rfl
@[simp] theorem State.latchIr_keysIn (w : Word) : (s.latchIr w).keysIn = s.keysIn := rfl
@[simp] theorem State.latchIr_rndIn (w : Word) : (s.latchIr w).rndIn = s.rndIn := rfl
@[simp] theorem State.latchIr_host (w : Word) : (s.latchIr w).host = s.host := rfl
@[simp] theorem State.latchIr_draws (w : Word) : (s.latchIr w).draws = s.draws := rfl
@[simp] theorem State.latchIr_reg (w : Word) (y : Nibble) : (s.latchIr w).reg y = s.reg y := rfl

/-! ### aluResult -/

@[simp] theorem State.aluResult_i (x : Nibble) (r : Byte) : (s.aluResult x r).i = s.i := rfl
@[simp] theorem State.aluResult_pc (x : Nibble) (r : Byte) : (s.aluResult x r).pc = s.pc + 2#16 := rfl
@[simp] theorem State.aluResult_sp (x : Nibble) (r : Byte) : (s.aluResult x r).sp = s.sp := rfl
@[simp] theorem State.aluResult_stack (x : Nibble) (r : Byte) : (s.aluResult x r).stack = s.stack := rfl
@[simp] theorem State.aluResult_dt (x : Nibble) (r : Byte) : (s.aluResult x r).dt = s.dt := rfl
@[simp] theorem State.aluResult_st (x : Nibble) (r : Byte) : (s.aluResult x r).st = s.st := rfl
@[simp] theorem State.aluResult_fb (x : Nibble) (r : Byte) : (s.aluResult x r).fb = s.fb := rfl
@[simp] theorem State.aluResult_mem (x : Nibble) (r : Byte) : (s.aluResult x r).mem = s.mem := rfl
@[simp] theorem State.aluResult_kw (x : Nibble) (r : Byte) : (s.aluResult x r).kw = s.kw := rfl
@[simp] theorem State.aluResult_kwReg (x : Nibble) (r : Byte) : (s.aluResult x r).kwReg = s.kwReg := rfl
@[simp] theorem State.aluResult_kwKey (x : Nibble) (r : Byte) : (s.aluResult x r).kwKey = s.kwKey := rfl
@[simp] theorem State.aluResult_ir (x : Nibble) (r : Byte) : (s.aluResult x r).ir = s.ir := rfl
@[simp] theorem State.aluResult_fault (x : Nibble) (r : Byte) : (s.aluResult x r).fault = s.fault := rfl
@[simp] theorem State.aluResult_faultInfo (x : Nibble) (r : Byte) : (s.aluResult x r).faultInfo = s.faultInfo := rfl
@[simp] theorem State.aluResult_keysIn (x : Nibble) (r : Byte) : (s.aluResult x r).keysIn = s.keysIn := rfl
@[simp] theorem State.aluResult_rndIn (x : Nibble) (r : Byte) : (s.aluResult x r).rndIn = s.rndIn := rfl
@[simp] theorem State.aluResult_host (x : Nibble) (r : Byte) : (s.aluResult x r).host = s.host := rfl
@[simp] theorem State.aluResult_draws (x : Nibble) (r : Byte) : (s.aluResult x r).draws = s.draws := rfl

/-! ### aluFlagged -/

@[simp] theorem State.aluFlagged_i (x : Nibble) (r : Byte) (f : Bool) : (s.aluFlagged x r f).i = s.i := rfl
@[simp] theorem State.aluFlagged_pc (x : Nibble) (r : Byte) (f : Bool) : (s.aluFlagged x r f).pc = s.pc + 2#16 := rfl
@[simp] theorem State.aluFlagged_sp (x : Nibble) (r : Byte) (f : Bool) : (s.aluFlagged x r f).sp = s.sp := rfl
@[simp] theorem State.aluFlagged_stack (x : Nibble) (r : Byte) (f : Bool) : (s.aluFlagged x r f).stack = s.stack := rfl
@[simp] theorem State.aluFlagged_dt (x : Nibble) (r : Byte) (f : Bool) : (s.aluFlagged x r f).dt = s.dt := rfl
@[simp] theorem State.aluFlagged_st (x : Nibble) (r : Byte) (f : Bool) : (s.aluFlagged x r f).st = s.st := rfl
@[simp] theorem State.aluFlagged_fb (x : Nibble) (r : Byte) (f : Bool) : (s.aluFlagged x r f).fb = s.fb := rfl
@[simp] theorem State.aluFlagged_mem (x : Nibble) (r : Byte) (f : Bool) : (s.aluFlagged x r f).mem = s.mem := rfl
@[simp] theorem State.aluFlagged_kw (x : Nibble) (r : Byte) (f : Bool) : (s.aluFlagged x r f).kw = s.kw := rfl
@[simp] theorem State.aluFlagged_kwReg (x : Nibble) (r : Byte) (f : Bool) : (s.aluFlagged x r f).kwReg = s.kwReg := rfl
@[simp] theorem State.aluFlagged_kwKey (x : Nibble) (r : Byte) (f : Bool) : (s.aluFlagged x r f).kwKey = s.kwKey := rfl
@[simp] theorem State.aluFlagged_ir (x : Nibble) (r : Byte) (f : Bool) : (s.aluFlagged x r f).ir = s.ir := rfl
@[simp] theorem State.aluFlagged_fault (x : Nibble) (r : Byte) (f : Bool) : (s.aluFlagged x r f).fault = s.fault := rfl
@[simp] theorem State.aluFlagged_faultInfo (x : Nibble) (r : Byte) (f : Bool) : (s.aluFlagged x r f).faultInfo = s.faultInfo := rfl
@[simp] theorem State.aluFlagged_keysIn (x : Nibble) (r : Byte) (f : Bool) : (s.aluFlagged x r f).keysIn = s.keysIn := rfl
@[simp] theorem State.aluFlagged_rndIn (x : Nibble) (r : Byte) (f : Bool) : (s.aluFlagged x r f).rndIn = s.rndIn := rfl
@[simp] theorem State.aluFlagged_host (x : Nibble) (r : Byte) (f : Bool) : (s.aluFlagged x r f).host = s.host := rfl
@[simp] theorem State.aluFlagged_draws (x : Nibble) (r : Byte) (f : Bool) : (s.aluFlagged x r f).draws = s.draws := rfl

end Sys2Proof.Machine
end

