-- ==== Sys2Proof/Laws/Registers.lean ====
section
/-! SUPPORT. Laws of the register file and the call stack: a read after a write, and every other register alone. -/

namespace Sys2Proof.Machine

variable (s : State)

theorem State.reg_setReg (x y : Nibble) (b : Byte) : (s.setReg x b).reg y = if x = y then b else s.reg y := by
  simp only [State.reg, State.setReg, Vector.getElem_set, BitVec.toNat_inj]

@[simp] theorem State.reg_setReg_same (x : Nibble) (b : Byte) : (s.setReg x b).reg x = b := by
  simp [State.reg_setReg]

theorem State.reg_setReg_ne {x y : Nibble} (b : Byte) (h : x ≠ y) : (s.setReg x b).reg y = s.reg y := by
  simp [State.reg_setReg, h]

theorem State.reg_setFlag (f : Bool) (y : Nibble) : (s.setFlag f).reg y = if y = vf then flagByte f else s.reg y := by
  rw [State.setFlag, State.reg_setReg]
  exact if_congr eq_comm rfl rfl

/-- What an ALU instruction with no flag leaves in a register. -/
theorem State.reg_aluResult (x y : Nibble) (r : Byte) : (s.aluResult x r).reg y = if x = y then r else s.reg y :=
  s.reg_setReg x y r

/-- What an ALU instruction with a flag leaves in a register: the flag wins in `VF` (R120). -/
theorem State.reg_aluFlagged (x y : Nibble) (r : Byte) (f : Bool) :
    (s.aluFlagged x r f).reg y = if y = vf then flagByte f else if x = y then r else s.reg y := by
  show ((s.setReg x r).setFlag f).reg y = _
  rw [State.reg_setFlag, State.reg_setReg]

/-- The loop of `Fx65`, at one register. -/
theorem foldl_setIfInBounds (g : Nat → Byte) (n : Nat) (v : Vector Byte 16) (j : Nat) (hj : j < 16) :
    ((List.range n).foldl (fun v k => v.setIfInBounds k (g k)) v)[j] = if j < n then g j else v[j] := by
  induction n with
  | zero => simp
  | succ n ih =>
    rw [List.range_succ, List.foldl_append, List.foldl_cons, List.foldl_nil, Vector.getElem_setIfInBounds, ih]
    by_cases h : n = j
    · subst h
      simp
    · simp only [if_neg h]
      by_cases h2 : j < n
      · simp [h2, Nat.lt_succ_of_lt h2]
      · simp [h2, show ¬ j < n + 1 by omega]

/-- What `Fx65` leaves in a register. -/
theorem State.reg_loadFromI (n : Nat) (y : Nibble) :
    (s.loadFromI n).reg y = if y.toNat < n then s.mem.read (s.i.toNat + y.toNat) else s.reg y :=
  foldl_setIfInBounds (fun k => s.mem.read (s.ea k)) n s.v y.toNat y.isLt

/-- The bytes `Fx55` stores. -/
theorem State.firstRegs_length (x : Nibble) : (s.firstRegs x).length = x.toNat + 1 := by
  have := x.isLt
  simp [State.firstRegs, moveCount]
  omega

theorem State.firstRegs_getElem (x y : Nibble) (h : y.toNat < (s.firstRegs x).length) : (s.firstRegs x)[y.toNat] = s.reg y := by
  simp [State.firstRegs, State.reg]

theorem flagByte_eq (f : Bool) : flagByte f = if f then 1#8 else 0#8 := rfl

end Sys2Proof.Machine
end

