-- ==== Sys2Proof/Laws/Events.lean ====
section
/-! SUPPORT. Laws of the shared operations of a step: range check and raise, the polls of the key wait, Tick, Init, the next event;
and what a step can do, said once. -/

namespace Sys2Proof.Machine

variable (s : State)

/-! ## Range check and raise -/

theorem State.accessOutside_iff (n : Nat) : s.accessOutside n = true ↔ 1 ≤ n ∧ 4096 < s.i.toNat + n := by
  simp only [State.accessOutside, Bool.and_eq_true, decide_eq_true_eq]
  omega

/-- A checked access raises, or ends in `done`. -/
theorem State.withAccess_cases (n : Nat) (done : State) :
    ((1 ≤ n ∧ 4096 < s.i.toNat + n) ∧ s.withAccess n done = .next s.raiseAddress) ∨
    ((n = 0 ∨ s.i.toNat + n ≤ 4096) ∧ s.withAccess n done = .next done) := by
  by_cases h : s.accessOutside n = true
  · exact .inl ⟨(s.accessOutside_iff n).1 h, by simp [State.withAccess, h]⟩
  · refine .inr ⟨?_, by simp [State.withAccess, h]⟩
    rw [State.accessOutside_iff] at h
    omega

theorem State.withAccess_outside {n : Nat} (done : State) (h1 : 1 ≤ n) (h : 4096 < s.i.toNat + n) :
    s.withAccess n done = .next s.raiseAddress := by
  rw [State.withAccess, if_pos ((s.accessOutside_iff n).2 ⟨h1, h⟩)]

theorem State.withAccess_inside {n : Nat} (done : State) (h : n = 0 ∨ s.i.toNat + n ≤ 4096) :
    s.withAccess n done = .next done := by
  rw [State.withAccess, if_neg]
  rw [State.accessOutside_iff]
  omega

/-- Every raise is precise (R177). -/
theorem State.raise_raised (c : FaultCode) (o : Option Word) (e : Option (BitVec 17)) : Raised c s (s.raise c o e) := ⟨rfl, rfl⟩

theorem State.raiseOpcode_raised (c : FaultCode) : Raised c s (s.raiseOpcode c) := ⟨rfl, rfl⟩

theorem State.raiseAddress_raised : Raised .addressOutOfRange s s.raiseAddress := ⟨rfl, rfl⟩

theorem State.raiseFetch_raised : Raised .fetchOutOfRange s s.raiseFetch := ⟨rfl, rfl⟩

theorem State.offendingAddress_toNat : s.offendingAddress.toNat = max s.i.toNat 4096 := by
  have := s.i.isLt
  simp only [State.offendingAddress, BitVec.toNat_ofNat]
  omega

/-! ## Tick -/

theorem countDown_toNat (b : Byte) : (countDown b).toNat = b.toNat - 1 := by
  have := b.isLt
  unfold countDown
  split
  · rename_i h
    have : b.toNat ≠ 0 := fun e => h (BitVec.eq_of_toNat_eq e)
    rw [BitVec.toNat_sub_of_le]
    · rfl
    · simpa [BitVec.le_def] using Nat.one_le_iff_ne_zero.2 this
  · rename_i h
    simp at h
    simp [h]

theorem State.tick_halted (h : s.fault ≠ .none) : s.tick = s := if_pos h

theorem State.tick_running (h : s.fault = .none) : s.tick = { s with dt := countDown s.dt, st := countDown s.st } := by
  simp [State.tick, h]

theorem State.ticks_halted (n : Nat) (h : s.fault ≠ .none) : s.ticks n = s := if_pos h

theorem State.ticks_running (n : Nat) (h : s.fault = .none) :
    s.ticks n = { s with dt := BitVec.ofNat 8 (s.dt.toNat - n), st := BitVec.ofNat 8 (s.st.toNat - n) } := by
  simp [State.ticks, h]

theorem State.ticks_zero : s.ticks 0 = s := by
  unfold State.ticks
  split
  · rfl
  · simp

theorem countDown_ofNat (b : Byte) (n : Nat) : countDown (BitVec.ofNat 8 (b.toNat - n)) = BitVec.ofNat 8 (b.toNat - (n + 1)) := by
  apply BitVec.eq_of_toNat_eq
  have := b.isLt
  rw [countDown_toNat, BitVec.toNat_ofNat, BitVec.toNat_ofNat]
  omega

/-- The closed form is right: one more Tick is `tick` of it. -/
theorem State.ticks_succ (n : Nat) : s.ticks (n + 1) = (s.ticks n).tick := by
  by_cases h : s.fault = .none
  · have h' : (s.ticks n).fault = .none := by rw [s.ticks_running n h]; exact h
    rw [State.tick_running _ h', s.ticks_running (n + 1) h, s.ticks_running n h]
    simp [countDown_ofNat]
  · rw [s.ticks_halted _ h, s.ticks_halted _ h, s.tick_halted h]

/-- Ticks touch the timers only. -/
theorem State.ticks_frame (n : Nat) : s.ticks n = { s with dt := (s.ticks n).dt, st := (s.ticks n).st } := by
  unfold State.ticks
  split <;> rfl

/-! ## The polls of the key wait -/

theorem State.pollPress_idle (h : s.keysIn = 0#16) : s.pollPress = s := by
  simp [State.pollPress, h]

theorem State.pollPress_held (h : s.keysIn ≠ 0#16) :
    s.pollPress = { s with kwKey := lowestKey s.keysIn, kw := .awaitingRelease } := if_pos h

theorem State.pollRelease_held (h : s.key s.kwKey = true) : s.pollRelease = s := by
  simp [State.pollRelease, h]

theorem State.pollRelease_released (h : s.key s.kwKey = false) :
    s.pollRelease = { (s.setReg s.kwReg (s.kwKey.setWidth 8)).advance with kw := .running } := if_pos h

theorem find_range_lowest {q : Nat → Bool} {k m : Nat} (hk : k < m) (hq : q k = true) (hlow : ∀ j, j < k → q j = false) :
    (List.range m).find? q = some k := by
  rw [List.find?_range_eq_some]
  exact ⟨hq, List.mem_range.2 hk, fun j hj => by simp [hlow j hj]⟩

/-- The latched key is the lowest-numbered one held (R164). -/
theorem lowestKey_eq {keys : BitVec 16} {k : Nibble} (hk : keys.getLsbD k.toNat = true)
    (hlow : ∀ j, j < k.toNat → keys.getLsbD j = false) : lowestKey keys = k := by
  rw [lowestKey, find_range_lowest k.isLt hk hlow]
  simp

/-! ## The next event, and what a step can do -/

theorem State.nextEvent_cons {e : HostEvent} {rest : List HostEvent} (h : s.host = e :: rest) :
    s.nextEvent = (e, { s with host := rest }) := by
  simp [State.nextEvent, h]

theorem State.nextEvent_nil (h : s.host = []) :
    s.nextEvent = (.step (Config.keysInput s.draws) (Config.rndInput s.draws),
      { s.ticks (Config.ticksBefore s.draws) with draws := s.draws + 1 }) := by
  simp [State.nextEvent, h]

theorem step_cons {e : HostEvent} {rest : List HostEvent} (h : s.host = e :: rest) :
    step s = runEvent e { s with host := rest } := by
  rw [step, s.nextEvent_cons h]

/-- A run of `n + 1` steps whose first step goes on, in any machine. -/
theorem core_run_succ (M : Host.Core) {n : Nat} {a b : M.State} (h : M.step a = .next b) : M.run (n + 1) a = M.run n b := by
  simp [Host.Core.run, h]

/-- A run of `n + 1` steps whose first step goes on. -/
theorem run_succ {n : Nat} {s t : State} (h : step s = .next t) : core.run (n + 1) s = core.run n t :=
  core_run_succ core h

/-- What a Running, not Halted Step can do: exits 4, 6 and 7 of R170. -/
theorem runInstr_cases :
    (4094 < s.pc.toNat ∧ runInstr s = .next s.raiseFetch) ∨
    (s.pc.toNat ≤ 4094 ∧ decodeWord s.fetchWord = none ∧
      runInstr s = .next ((s.latchIr s.fetchWord).raiseOpcode .decodeFailure)) ∨
    (∃ i, s.pc.toNat ≤ 4094 ∧ decodeWord s.fetchWord = some i ∧ runInstr s = exec i (s.latchIr s.fetchWord)) := by
  unfold runInstr
  split
  · exact .inl ⟨by assumption, rfl⟩
  · rename_i h
    cases hd : decodeWord s.fetchWord with
    | none => exact .inr (.inl ⟨by omega, rfl, rfl⟩)
    | some i => exact .inr (.inr ⟨i, by omega, rfl, rfl⟩)

/-- What a Step can do: the seven exits of R170 but 4, 6, 7, which are `runInstr`. -/
theorem runStep_cases :
    (s.fault ≠ .none ∧ runStep s = .next s) ∨
    (s.fault = .none ∧ s.kw = .awaitingPress ∧ runStep s = .next s.pollPress) ∨
    (s.fault = .none ∧ s.kw = .awaitingRelease ∧ runStep s = .next s.pollRelease) ∨
    (s.fault = .none ∧ s.kw = .running ∧ runStep s = runInstr s) := by
  by_cases hf : s.fault = .none
  · cases hk : s.kw <;> simp [runStep, hf, hk]
  · simp [runStep, hf]

end Sys2Proof.Machine
end

