-- ==== Sys2Proof/Laws/PerInstr.lean ====
section
/-! SUPPORT. Per-instruction families: each instruction's word lies in its row of the opcode map (R74), and its operands are in
their ranges (R73). -/

namespace Sys2Proof.Laws

/-! ## TableRow: the encoding of an instruction matches its row of R74, one of the 34 -/

/-- The word of `i` matches `i`'s row, and the row is one of R74's. -/
def TableRow.Statement (i : Instr) : Prop := i.row.covers (encode i) = true ∧ i.row ∈ opcodeRows

theorem covers_opMask (m w : Word) : (Row.mk m 0xF000#16).covers w = decide (wordNNN (fieldOp w) 0#12 = m) := by
  simp [Row.covers, and_opMask, beq_eq_decide]

theorem covers_opNMask (m w : Word) :
    (Row.mk m 0xF00F#16).covers w = decide (wordXYN (fieldOp w) 0#4 0#4 (fieldN w) = m) := by
  simp [Row.covers, and_opNMask, beq_eq_decide]

theorem covers_opKKMask (m w : Word) :
    (Row.mk m 0xF0FF#16).covers w = decide (wordXKK (fieldOp w) 0#4 (fieldKK w) = m) := by
  simp [Row.covers, and_opKKMask, beq_eq_decide]

theorem TableRow.nnn (op : Nibble) (nnn : Addr12) (m : Word) (h : wordNNN op 0#12 = m) :
    (Row.mk m 0xF000#16).covers (wordNNN op nnn) = true := by
  simp [covers_opMask, h]

theorem TableRow.xkk (op x : Nibble) (kk : Byte) (m : Word) (h : wordNNN op 0#12 = m) :
    (Row.mk m 0xF000#16).covers (wordXKK op x kk) = true := by
  simp [covers_opMask, h]

theorem TableRow.xyn (op x y n : Nibble) (m : Word) (h : wordNNN op 0#12 = m) :
    (Row.mk m 0xF000#16).covers (wordXYN op x y n) = true := by
  simp [covers_opMask, h]

theorem TableRow.xyf (op x y n : Nibble) (m : Word) (h : wordXYN op 0#4 0#4 n = m) :
    (Row.mk m 0xF00F#16).covers (wordXYN op x y n) = true := by
  simp [covers_opNMask, h]

theorem TableRow.xff (op x : Nibble) (kk : Byte) (m : Word) (h : wordXKK op 0#4 kk = m) :
    (Row.mk m 0xF0FF#16).covers (wordXKK op x kk) = true := by
  simp [covers_opKKMask, h]

theorem TableRow.cls : TableRow.Statement .cls := ⟨by decide, by decide⟩
theorem TableRow.ret : TableRow.Statement .ret := ⟨by decide, by decide⟩
theorem TableRow.jp (nnn : Addr12) : TableRow.Statement (.jp nnn) :=
  ⟨TableRow.nnn _ _ _ (by decide), by simp [Instr.row, opcodeRows]⟩
theorem TableRow.call (nnn : Addr12) : TableRow.Statement (.call nnn) :=
  ⟨TableRow.nnn _ _ _ (by decide), by simp [Instr.row, opcodeRows]⟩
theorem TableRow.seImm (x : Nibble) (kk : Byte) : TableRow.Statement (.seImm x kk) :=
  ⟨TableRow.xkk _ _ _ _ (by decide), by simp [Instr.row, opcodeRows]⟩
theorem TableRow.sneImm (x : Nibble) (kk : Byte) : TableRow.Statement (.sneImm x kk) :=
  ⟨TableRow.xkk _ _ _ _ (by decide), by simp [Instr.row, opcodeRows]⟩
theorem TableRow.seReg (x : Nibble) (y : Nibble) : TableRow.Statement (.seReg x y) :=
  ⟨TableRow.xyf _ _ _ _ _ (by decide), by simp [Instr.row, opcodeRows]⟩
theorem TableRow.ldImm (x : Nibble) (kk : Byte) : TableRow.Statement (.ldImm x kk) :=
  ⟨TableRow.xkk _ _ _ _ (by decide), by simp [Instr.row, opcodeRows]⟩
theorem TableRow.addImm (x : Nibble) (kk : Byte) : TableRow.Statement (.addImm x kk) :=
  ⟨TableRow.xkk _ _ _ _ (by decide), by simp [Instr.row, opcodeRows]⟩
theorem TableRow.ldReg (x : Nibble) (y : Nibble) : TableRow.Statement (.ldReg x y) :=
  ⟨TableRow.xyf _ _ _ _ _ (by decide), by simp [Instr.row, opcodeRows]⟩
theorem TableRow.orReg (x : Nibble) (y : Nibble) : TableRow.Statement (.orReg x y) :=
  ⟨TableRow.xyf _ _ _ _ _ (by decide), by simp [Instr.row, opcodeRows]⟩
theorem TableRow.andReg (x : Nibble) (y : Nibble) : TableRow.Statement (.andReg x y) :=
  ⟨TableRow.xyf _ _ _ _ _ (by decide), by simp [Instr.row, opcodeRows]⟩
theorem TableRow.xorReg (x : Nibble) (y : Nibble) : TableRow.Statement (.xorReg x y) :=
  ⟨TableRow.xyf _ _ _ _ _ (by decide), by simp [Instr.row, opcodeRows]⟩
theorem TableRow.addReg (x : Nibble) (y : Nibble) : TableRow.Statement (.addReg x y) :=
  ⟨TableRow.xyf _ _ _ _ _ (by decide), by simp [Instr.row, opcodeRows]⟩
theorem TableRow.sub (x : Nibble) (y : Nibble) : TableRow.Statement (.sub x y) :=
  ⟨TableRow.xyf _ _ _ _ _ (by decide), by simp [Instr.row, opcodeRows]⟩
theorem TableRow.shr (x : Nibble) (y : Nibble) : TableRow.Statement (.shr x y) :=
  ⟨TableRow.xyf _ _ _ _ _ (by decide), by simp [Instr.row, opcodeRows]⟩
theorem TableRow.subn (x : Nibble) (y : Nibble) : TableRow.Statement (.subn x y) :=
  ⟨TableRow.xyf _ _ _ _ _ (by decide), by simp [Instr.row, opcodeRows]⟩
theorem TableRow.shl (x : Nibble) (y : Nibble) : TableRow.Statement (.shl x y) :=
  ⟨TableRow.xyf _ _ _ _ _ (by decide), by simp [Instr.row, opcodeRows]⟩
theorem TableRow.sneReg (x : Nibble) (y : Nibble) : TableRow.Statement (.sneReg x y) :=
  ⟨TableRow.xyf _ _ _ _ _ (by decide), by simp [Instr.row, opcodeRows]⟩
theorem TableRow.ldI (nnn : Addr12) : TableRow.Statement (.ldI nnn) :=
  ⟨TableRow.nnn _ _ _ (by decide), by simp [Instr.row, opcodeRows]⟩
theorem TableRow.jpV0 (nnn : Addr12) : TableRow.Statement (.jpV0 nnn) :=
  ⟨TableRow.nnn _ _ _ (by decide), by simp [Instr.row, opcodeRows]⟩
theorem TableRow.rnd (x : Nibble) (kk : Byte) : TableRow.Statement (.rnd x kk) :=
  ⟨TableRow.xkk _ _ _ _ (by decide), by simp [Instr.row, opcodeRows]⟩
theorem TableRow.drw (x : Nibble) (y : Nibble) (n : Nibble) : TableRow.Statement (.drw x y n) :=
  ⟨TableRow.xyn _ _ _ _ _ (by decide), by simp [Instr.row, opcodeRows]⟩
theorem TableRow.skp (x : Nibble) : TableRow.Statement (.skp x) :=
  ⟨TableRow.xff _ _ _ _ (by decide), by simp [Instr.row, opcodeRows]⟩
theorem TableRow.sknp (x : Nibble) : TableRow.Statement (.sknp x) :=
  ⟨TableRow.xff _ _ _ _ (by decide), by simp [Instr.row, opcodeRows]⟩
theorem TableRow.ldVxDt (x : Nibble) : TableRow.Statement (.ldVxDt x) :=
  ⟨TableRow.xff _ _ _ _ (by decide), by simp [Instr.row, opcodeRows]⟩
theorem TableRow.ldVxK (x : Nibble) : TableRow.Statement (.ldVxK x) :=
  ⟨TableRow.xff _ _ _ _ (by decide), by simp [Instr.row, opcodeRows]⟩
theorem TableRow.ldDtVx (x : Nibble) : TableRow.Statement (.ldDtVx x) :=
  ⟨TableRow.xff _ _ _ _ (by decide), by simp [Instr.row, opcodeRows]⟩
theorem TableRow.ldStVx (x : Nibble) : TableRow.Statement (.ldStVx x) :=
  ⟨TableRow.xff _ _ _ _ (by decide), by simp [Instr.row, opcodeRows]⟩
theorem TableRow.addI (x : Nibble) : TableRow.Statement (.addI x) :=
  ⟨TableRow.xff _ _ _ _ (by decide), by simp [Instr.row, opcodeRows]⟩
theorem TableRow.ldF (x : Nibble) : TableRow.Statement (.ldF x) :=
  ⟨TableRow.xff _ _ _ _ (by decide), by simp [Instr.row, opcodeRows]⟩
theorem TableRow.bcd (x : Nibble) : TableRow.Statement (.bcd x) :=
  ⟨TableRow.xff _ _ _ _ (by decide), by simp [Instr.row, opcodeRows]⟩
theorem TableRow.storeRegs (x : Nibble) : TableRow.Statement (.storeRegs x) :=
  ⟨TableRow.xff _ _ _ _ (by decide), by simp [Instr.row, opcodeRows]⟩
theorem TableRow.loadRegs (x : Nibble) : TableRow.Statement (.loadRegs x) :=
  ⟨TableRow.xff _ _ _ _ (by decide), by simp [Instr.row, opcodeRows]⟩

end Sys2Proof.Laws
end

