-- ==== Sys2Proof/Tests/Slice0.lean ====
section
/-! SUPPORT. Tests: ill-formed terms, words written out from the encodings, one step of each instruction with the result of a
test vector of `95_test_vectors.md` (its id in the comment), and a witness of the hypotheses of each statement. -/

namespace Sys2Proof.Tests

open Sys2Proof Sys2Proof.Machine

/-! ## Helpers -/

/-- The outcome is a next state with the property. -/
def nextHas (o : Host.Outcome State Fault Refusal) (p : State → Bool) : Bool :=
  match o with
  | .next t => p t
  | .fault _ => false
  | .refused _ => false

/-- The start state of a vector: the Init state with `w` at `pc` and one Step issued. -/
def start (w : Word) (keys : BitVec 16 := 0) (rnd : Byte := 0) : State :=
  { State.reset with mem := Memory.writeBytes [] 0x200 [highByte w, lowByte w], host := [.step keys rnd] }

/-- One register of a vector's start state. -/
def withReg (s : State) (x : Nibble) (b : Byte) : State := s.setReg x b

/-- Bytes of a vector's start state. -/
def withMem (s : State) (a : Nat) (bs : List Byte) : State := s.storeBytes a bs

/-- One pixel of a vector's start state turned on. -/
def withPixel (s : State) (X Y : Nat) (hX : X < 64 := by decide) (hY : Y < 32 := by decide) : State :=
  s.setFb (setPixel s.fb X Y hX hY true)

/-- A pixel as a test sees it. -/
def dot (s : State) (X Y : Nat) (hX : X < 64 := by decide) (hY : Y < 32 := by decide) : Bool := pixel s.fb X Y hX hY

/-- The arguments of an Init with this program, the default font and fill. -/
def initOf (program : List Byte) : InitArgs := ⟨program, defaultFont, defaultMemFill⟩

/-! ## Well-formedness (R5, R6, R73, R191) -/

theorem test_wf_accepts_the_longest_program : (initOf (List.replicate 3584 0)).wf = true := by
  simp only [initOf, InitArgs.wf, InitArgs.programFits, InitArgs.fontComplete, List.length_replicate]
  decide
theorem test_wf_refuses_a_longer_program : (initOf (List.replicate 3585 0)).programFits = false := by
  simp only [initOf, InitArgs.programFits, List.length_replicate]
  decide
theorem test_wf_refuses_a_short_font : (InitArgs.mk [] (List.replicate 79 0) 0).fontComplete = false := by
  simp only [InitArgs.fontComplete, List.length_replicate]
  decide
theorem test_wf_refuses_a_long_font : (InitArgs.mk [] (List.replicate 81 0) 0).fontComplete = false := by
  simp only [InitArgs.fontComplete, List.length_replicate]
  decide
theorem test_wf_refuses_ill_formed_arguments :
    (initOf (List.replicate 3585 0)).wf = false ∧ (InitArgs.mk [] (List.replicate 79 0) 0).wf = false := by
  simp only [initOf, InitArgs.wf, InitArgs.programFits, InitArgs.fontComplete, List.length_replicate]
  decide
theorem test_wf_instruction_at_the_ends_of_its_ranges :
    Instr.wf (.drw 0xF 0xF 0xF) = true ∧ Instr.wf (.call 0xFFF) = true ∧ Instr.wf (.rnd 0x0 0xFF) = true := by decide

/-! ## Words written out bit by bit from R74 -/

theorem test_decode_control_flow :
    decodeWord 0b0000000011100000#16 = some (.cls) ∧
    decodeWord 0b0000000011101110#16 = some (.ret) ∧
    decodeWord 0b0001101010111100#16 = some (.jp 0xABC) ∧
    decodeWord 0b0010001100000001#16 = some (.call 0x301) ∧
    decodeWord 0b0011101001000010#16 = some (.seImm 0xA 0x42) ∧
    decodeWord 0b0100101001000010#16 = some (.sneImm 0xA 0x42) ∧
    decodeWord 0b0101000100100000#16 = some (.seReg 0x1 0x2) ∧
    decodeWord 0b1001000100100000#16 = some (.sneReg 0x1 0x2) ∧
    decodeWord 0b1011001100001001#16 = some (.jpV0 0x309) ∧
    decodeWord 0b1110000110011110#16 = some (.skp 0x1) ∧
    decodeWord 0b1110000110100001#16 = some (.sknp 0x1) := by decide
theorem test_decode_alu :
    decodeWord 0b0110101001111111#16 = some (.ldImm 0xA 0x7F) ∧
    decodeWord 0b0111001111111110#16 = some (.addImm 0x3 0xFE) ∧
    decodeWord 0b1000000100100000#16 = some (.ldReg 0x1 0x2) ∧
    decodeWord 0b1000000100100001#16 = some (.orReg 0x1 0x2) ∧
    decodeWord 0b1000000100100010#16 = some (.andReg 0x1 0x2) ∧
    decodeWord 0b1000000100100011#16 = some (.xorReg 0x1 0x2) ∧
    decodeWord 0b1000000100100100#16 = some (.addReg 0x1 0x2) ∧
    decodeWord 0b1000000100100101#16 = some (.sub 0x1 0x2) ∧
    decodeWord 0b1000000100100110#16 = some (.shr 0x1 0x2) ∧
    decodeWord 0b1000000100100111#16 = some (.subn 0x1 0x2) ∧
    decodeWord 0b1000000100101110#16 = some (.shl 0x1 0x2) ∧
    decodeWord 0b1100000100001111#16 = some (.rnd 0x1 0x0F) := by decide
theorem test_decode_index_display_timers :
    decodeWord 0b1010000100100011#16 = some (.ldI 0x123) ∧
    decodeWord 0b1101000100100101#16 = some (.drw 0x1 0x2 0x5) ∧
    decodeWord 0b1111000100000111#16 = some (.ldVxDt 0x1) ∧
    decodeWord 0b1111001100001010#16 = some (.ldVxK 0x3) ∧
    decodeWord 0b1111000100010101#16 = some (.ldDtVx 0x1) ∧
    decodeWord 0b1111000100011000#16 = some (.ldStVx 0x1) ∧
    decodeWord 0b1111000100011110#16 = some (.addI 0x1) ∧
    decodeWord 0b1111000100101001#16 = some (.ldF 0x1) ∧
    decodeWord 0b1111000100110011#16 = some (.bcd 0x1) ∧
    decodeWord 0b1111001001010101#16 = some (.storeRegs 0x2) ∧
    decodeWord 0b1111001001100101#16 = some (.loadRegs 0x2) := by decide

/-- FD1 to FD11: words the decoder refuses. -/
theorem test_decode_refuses : [0x0000, 0x0123, 0x5121, 0x912F, 0x8128, 0x812F, 0xE19F, 0xF100, 0xF175, 0x00EF, 0x00FE].all
    (fun w => decodeWord (BitVec.ofNat 16 w) == none) = true := by decide
theorem test_decode_of_bytes_is_big_endian : decode [0xA2, 0x02, 0x60] = .ok (.ldI 0x202, [0x60]) := by decide
theorem test_decode_of_one_byte_is_refused : decode [0xA2] = .error .truncated := by decide
theorem test_table_word : decodeTableWord 16 0xA202 = some (.ldI 0x202) := by decide

/-! ## One step of each instruction -/

/-- DS1 -/
theorem test_cls : nextHas (step (withPixel (withPixel (start 0x00E0) 10 5) 63 31)) (fun t => !dot t 10 5 && !dot t 63 31 && t.pc == 0x202) = true := by decide

/-- CF9 (the top slot, index 15) -/
theorem test_ret : nextHas (step ({ start 0x00EE with sp := 16, stack := State.reset.stack.set 15 0xABC })) (fun t => t.pc == 0xABE && t.sp == 15) = true := by decide

/-- CF10 -/
theorem test_ret_underflow : nextHas (step (start 0x00EE)) (fun t => t.fault == .stackUnderflow && t.faultInfo.pc == 0x200 && t.faultInfo.opcode == 0x00EE && t.pc == 0x200) = true := by decide

/-- CF1 -/
theorem test_jp : nextHas (step (start 0x1ABC)) (fun t => t.pc == 0xABC) = true := by decide

/-- CF4 -/
theorem test_call : nextHas (step (start 0x2300)) (fun t => t.pc == 0x300 && t.sp == 1 && t.stack[0] == 0x200) = true := by decide

/-- CF6 (at 0x200) -/
theorem test_call_overflow : nextHas (step ({ start 0x2ABC with sp := 16 })) (fun t => t.fault == .stackOverflow && t.faultInfo.opcode == 0x2ABC && t.pc == 0x200 && t.sp == 16) = true := by decide

/-- CF13 -/
theorem test_seImm : nextHas (step (withReg (start 0x3A42) 0xA 0x42)) (fun t => t.pc == 0x204) = true := by decide

/-- CF14 -/
theorem test_seImm_no_skip : nextHas (step (withReg (start 0x3A42) 0xA 0x43)) (fun t => t.pc == 0x202) = true := by decide

/-- CF16 -/
theorem test_sneImm : nextHas (step (withReg (start 0x4A42) 0xA 0x42)) (fun t => t.pc == 0x202) = true := by decide

/-- CF18 -/
theorem test_seReg : nextHas (step (withReg (withReg (start 0x5120) 1 0x80) 2 0x80)) (fun t => t.pc == 0x204) = true := by decide

/-- CF22 -/
theorem test_sneReg : nextHas (step (withReg (withReg (start 0x9120) 1 0x80) 2 0x7F)) (fun t => t.pc == 0x204) = true := by decide

/-- CF32 -/
theorem test_jpV0 : nextHas (step (withReg (start 0xBFFF) 0 0xFF)) (fun t => t.pc == 0x10FE) = true := by decide

/-- CF33 -/
theorem test_jpV0_adds_register_zero : nextHas (step (withReg (withReg (start 0xB300) 0 0x00) 3 0x44)) (fun t => t.pc == 0x300) = true := by decide

/-- CF24 -/
theorem test_skp : nextHas (step (withReg (start 0xE19E 0x0080) 1 0x07)) (fun t => t.pc == 0x204) = true := by decide

/-- CF26 -/
theorem test_skp_low_nibble : nextHas (step (withReg (start 0xE19E 0x0080) 1 0x17)) (fun t => t.pc == 0x204) = true := by decide

/-- CF28 -/
theorem test_sknp : nextHas (step (withReg (start 0xE1A1) 1 0x07)) (fun t => t.pc == 0x204) = true := by decide

/-- AL1 -/
theorem test_ldImm : nextHas (step (withReg (start 0x6A7F) 0xA 0x11)) (fun t => t.reg 0xA == 0x7F && t.pc == 0x202) = true := by decide

/-- AL3 -/
theorem test_addImm : nextHas (step (withReg (withReg (start 0x73FF) 3 0x02) 0xF 0x55)) (fun t => t.reg 3 == 0x01 && t.reg vf == 0x55) = true := by decide

/-- AL6 -/
theorem test_ldReg : nextHas (step (withReg (withReg (start 0x8120) 1 0x11) 2 0x22)) (fun t => t.reg 1 == 0x22 && t.reg 2 == 0x22) = true := by decide

/-- AL8 -/
theorem test_or : nextHas (step (withReg (withReg (withReg (start 0x8121) 1 0x0F) 2 0xF0) 0xF 0xAA)) (fun t => t.reg 1 == 0xFF && t.reg vf == 0xAA) = true := by decide

/-- AL9 -/
theorem test_and : nextHas (step (withReg (withReg (withReg (start 0x8122) 1 0x3C) 2 0x0F) 0xF 0xAA)) (fun t => t.reg 1 == 0x0C && t.reg vf == 0xAA) = true := by decide

/-- AL12 -/
theorem test_xor : nextHas (step (withReg (withReg (start 0x8F13) 1 0x0F) 0xF 0xAA)) (fun t => t.reg vf == 0xA5) = true := by decide

/-- AL13 -/
theorem test_addReg : nextHas (step (withReg (withReg (start 0x8124) 1 0xFF) 2 0x01)) (fun t => t.reg 1 == 0x00 && t.reg vf == 0x01) = true := by decide

/-- AL17 -/
theorem test_addReg_flag_wins : nextHas (step (withReg (withReg (start 0x8F14) 0xF 0x10) 1 0x20)) (fun t => t.reg vf == 0x00) = true := by decide

/-- AL21 -/
theorem test_sub : nextHas (step (withReg (withReg (withReg (start 0x8125) 1 0x03) 2 0x05) 0xF 0x01)) (fun t => t.reg 1 == 0xFE && t.reg vf == 0x00) = true := by decide

/-- AL22 -/
theorem test_sub_equal_clears_the_flag : nextHas (step (withReg (withReg (withReg (start 0x8125) 1 0x42) 2 0x42) 0xF 0x01)) (fun t => t.reg 1 == 0x00 && t.reg vf == 0x00) = true := by decide

/-- AL26 -/
theorem test_shr : nextHas (step (withReg (withReg (start 0x8126) 1 0x05) 2 0xFF)) (fun t => t.reg 1 == 0x02 && t.reg vf == 0x01 && t.reg 2 == 0xFF) = true := by decide

/-- AL31 -/
theorem test_subn : nextHas (step (withReg (withReg (start 0x8127) 1 0x03) 2 0x05)) (fun t => t.reg 1 == 0x02 && t.reg vf == 0x01) = true := by decide

/-- AL34 -/
theorem test_shl : nextHas (step (withReg (withReg (start 0x812E) 1 0x81) 2 0xFF)) (fun t => t.reg 1 == 0x02 && t.reg vf == 0x01) = true := by decide

/-- AL38 -/
theorem test_shl_flag_wins : nextHas (step (withReg (start 0x8F0E) 0xF 0x7F)) (fun t => t.reg vf == 0x00) = true := by decide

/-- AL39 -/
theorem test_rnd : nextHas (step (withReg (start 0xC10F 0 0xB7) 1 0xAA)) (fun t => t.reg 1 == 0x07) = true := by decide

/-- IM1 -/
theorem test_ldI : nextHas (step ({ start 0xA123 with i := 0xFFF })) (fun t => t.i == 0x123 && t.pc == 0x202) = true := by decide

/-- IM4 -/
theorem test_addI : nextHas (step ({ withReg (start 0xF11E) 1 0x02 with i := 0xFFFF })) (fun t => t.i == 0x0001 && t.reg vf == 0) = true := by decide

/-- IM7 -/
theorem test_ldF : nextHas (step (withReg (start 0xF029) 0 0xFF)) (fun t => t.i == 0x04FB) = true := by decide

/-- IM12 -/
theorem test_bcd : nextHas (step ({ withReg (start 0xF033) 0 0xEA with i := 0xFFD })) (fun t => t.mem.read 0xFFD == 2 && t.mem.read 0xFFE == 3 && t.mem.read 0xFFF == 4 && t.i == 0xFFD) = true := by decide

/-- IM13 -/
theorem test_bcd_beyond_memory : nextHas (step ({ withReg (start 0xF033) 0 0xEA with i := 0xFFE })) (fun t => t.fault == .addressOutOfRange && t.faultInfo.ea == 0x1000 && t.mem.read 0xFFE == 0) = true := by decide

/-- IM14 -/
theorem test_storeRegs : nextHas (step ({ withReg (withReg (withReg (withReg (start 0xF255) 0 0x11) 1 0x22) 2 0x33) 3 0x44 with i := 0x300 })) (fun t => t.mem.read 0x300 == 0x11 && t.mem.read 0x302 == 0x33 && t.mem.read 0x303 == 0 && t.i == 0x300) = true := by decide

/-- IM19 -/
theorem test_storeRegs_beyond_memory : nextHas (step ({ withReg (start 0xF055) 0 0x11 with i := 0xFFFF })) (fun t => t.fault == .addressOutOfRange && t.faultInfo.ea == 0xFFFF && t.mem.read 0 == 0xF0) = true := by decide

/-- IM20 -/
theorem test_loadRegs : nextHas (step ({ withReg (withMem (start 0xF265) 0x300 [0x11, 0x22, 0x33, 0x44]) 3 0x99 with i := 0x300 })) (fun t => t.reg 0 == 0x11 && t.reg 2 == 0x33 && t.reg 3 == 0x99 && t.i == 0x300) = true := by decide

/-- IM21 -/
theorem test_loadRegs_reads_the_font : nextHas (step ({ start 0xF265 with i := 0 })) (fun t => t.reg 0 == 0xF0 && t.reg 1 == 0x90) = true := by decide

/-- DS3 -/
theorem test_drw_wraps : nextHas (step ({ withReg (withReg (withMem (start 0xD012) 0x300 [0xC0, 0xC0]) 0 0x3F) 1 0x1F with i := 0x300 })) (fun t => dot t 0 0 && dot t 63 0 && dot t 0 31 && dot t 63 31 && !dot t 1 0 && t.reg vf == 0) = true := by decide

/-- DS7 -/
theorem test_drw_collides : nextHas (step ({ withReg (withReg (withPixel (withMem (start 0xD012) 0x300 [0xA5, 0x3C]) 12 5) 0 0x0A) 1 0x05 with i := 0x300 })) (fun t => dot t 10 5 && !dot t 12 5 && dot t 17 5 && dot t 15 6 && t.reg vf == 1) = true := by decide

/-- KT1 -/
theorem test_ldVxDt : nextHas (step (withReg ({ start 0xF107 with dt := 0x2A }) 1 0x99)) (fun t => t.reg 1 == 0x2A && t.dt == 0x2A) = true := by decide

/-- KT6 -/
theorem test_ldVxK_enters : nextHas (step (start 0xF30A 0xFFFF)) (fun t => t.kw == .awaitingPress && t.kwReg == 3 && t.pc == 0x200) = true := by decide

/-- KT12 -/
theorem test_ldVxK_resolves : nextHas (step ({ start 0xF30A 0xFF7F with kw := .awaitingRelease, kwReg := 3, kwKey := 7 })) (fun t => t.reg 3 == 7 && t.pc == 0x202 && t.kw == .running) = true := by decide

/-- KT2 -/
theorem test_ldDtVx : nextHas (step (withReg (start 0xF115) 1 0x2A)) (fun t => t.dt == 0x2A && t.st == 0) = true := by decide

/-- KT4 -/
theorem test_ldStVx : nextHas (step (withReg (start 0xF118) 1 0x05)) (fun t => t.st == 0x05 && t.dt == 0) = true := by decide

/-! ## The other events and faults -/

/-- KT8 -/
theorem test_press_latches_the_lowest_key :
    nextHas (step { start 0 0x0280 with kw := .awaitingPress, kwReg := 3 }) (fun t => t.kw == .awaitingRelease && t.kwKey == 7) = true := by
  decide
/-- FD1 -/
theorem test_illegal_word : nextHas (step (start 0x0000)) (fun t => t.fault == .decodeFailure && t.pc == 0x200) = true := by decide
/-- FD15 -/
theorem test_fetch_beyond_memory :
    nextHas (step { start 0 with pc := 0x10FE }) (fun t => t.fault == .fetchOutOfRange && t.faultInfo.pc == 0x10FE && t.ir == 0) = true := by
  decide
/-- TI1 -/
theorem test_tick : nextHas (step { State.reset with dt := 0x0A, st := 0x01, host := [.tick] }) (fun t => t.dt == 0x09 && t.st == 0) = true := by
  decide
/-- FD18 -/
theorem test_tick_when_halted :
    nextHas (step { State.reset with fault := .decodeFailure, dt := 5, host := [.tick] }) (fun t => t.dt == 5) = true := by decide
/-- R190, R191: the reset memory is what the image of Init gives, at the first glyph and the last byte of the font. -/
theorem test_reset_memory : State.reset.mem.read 0 = 0xF0 ∧ State.reset.mem.read 0x4F = 0x80 ∧ State.reset.mem.read 0x50 = 0 := by decide
/-- The host's placed word runs as the first instruction after reset. -/
theorem test_placed_word : nextHas (step ((State.reset).withFetchWord 16 0xA202)) (fun t => t.i == 0x202 && t.pc == 0x202) = true := by
  decide

/-! ## A witness of the hypotheses of each statement, clause by clause, at the ends of its ranges -/

/-- DecodeOfEncodeIsTheInstruction, EncodeOfDecodeIsTheWord, DecoderAgreesWithTheOpcodeMap. -/
theorem test_witness_encoding :
    Instr.wf (.shl 0xF 0x1) = true ∧ decodeWord 0x8F1E#16 = some (.shl 0xF 0x1) ∧
    (Row.mk 0x800E 0xF00F ∈ opcodeRows ∧ (Row.mk 0x800E 0xF00F).covers 0x8F1E#16 = true) ∧
    (decodeWord 0x5121#16 = none ∧ ∀ r ∈ opcodeRows, r.covers 0x5121#16 = false) := by decide

/-- UndecodedWordsAreTheIllegalOnes, IllegalWordRaisesDecodeFailure: a word of each clause of R77. -/
theorem test_witness_illegal_words :
    IllegalWord 0x0000#16 ∧ IllegalWord 0x00EF#16 ∧ IllegalWord 0x5121#16 ∧ IllegalWord 0x912F#16 ∧ IllegalWord 0x8128#16 ∧
    IllegalWord 0x812F#16 ∧ IllegalWord 0xE19F#16 ∧ IllegalWord 0xF100#16 ∧ ¬ IllegalWord 0x00EE#16 ∧ ¬ IllegalWord 0x812E#16 := by
  refine ⟨?_, ?_, ?_, ?_, ?_, ?_, ?_, ?_, ?_, ?_⟩ <;> unfold IllegalWord <;> decide

/-- RetPopsOrUnderflows, CallPushesOrOverflows, StackPointerAboveSixteenStops: no two clauses share an `sp`. -/
theorem test_witness_stack_depths :
    (State.reset.sp.toNat = 0) ∧ (∃ s : State, s.sp.toNat = 0 + 1) ∧ (∃ s : State, s.sp.toNat = 15 + 1 ∧ 15 < 16) ∧
    (∃ s : State, s.sp.toNat = 16) ∧ (∃ s : State, s.sp.toNat = 15 ∧ s.sp.toNat < 16) ∧ (∃ s : State, 16 < s.sp.toNat ∧ s.sp.toNat = 17) ∧
    (∃ s : State, 16 < s.sp.toNat ∧ s.sp.toNat = 31) :=
  ⟨by decide, ⟨{ State.reset with sp := 1 }, by decide⟩, ⟨{ State.reset with sp := 16 }, by decide⟩, ⟨{ State.reset with sp := 16 }, by decide⟩,
    ⟨{ State.reset with sp := 15 }, by decide⟩, ⟨{ State.reset with sp := 17 }, by decide⟩, ⟨{ State.reset with sp := 31 }, by decide⟩⟩

/-- JumpGoesToItsTarget (the jump to itself), RegisterSkipsAdvanceByTwoOrFour, RegisterCopyWritesOneRegister, the flag statements
and RandomByteIsTheSampleUnderTheMask. -/
theorem test_witness_operands :
    (0x200#12).toNat = State.reset.pc.toNat ∧ (0x1#4 ≠ 0 ∧ 0xF#4 ≠ 0) ∧ (∃ x y : Nibble, x = y) ∧ (∃ x : Nibble, x ≠ vf) ∧
    (∃ kk : Byte, kk = 0x00) ∧ (∃ kk : Byte, kk = 0xFF) :=
  ⟨by decide, by decide, ⟨3, 3, rfl⟩, ⟨0xE, by decide⟩, ⟨0x00, rfl⟩, ⟨0xFF, rfl⟩⟩

/-- BcdStoresThreeDigits, StoreWritesTheFirstRegisters, LoadReadsTheFirstRegisters: the last addresses in range. -/
theorem test_witness_accesses_in_range :
    (∃ s : State, s.mem.wf = true ∧ s.i.toNat + 2 ≤ 4095 ∧ s.i = 0xFFD) ∧
    (∃ (s : State) (x : Nibble), s.mem.wf = true ∧ s.i.toNat + x.toNat ≤ 4095 ∧ s.i = 0xFF0 ∧ x = 0xF) ∧
    (∃ (s : State) (x y z : Nibble), s.i.toNat + x.toNat ≤ 4095 ∧ y.toNat ≤ x.toNat ∧ x.toNat < z.toNat) :=
  ⟨⟨{ State.reset with i := 0xFFD }, by decide⟩, ⟨{ State.reset with i := 0xFF0 }, 0xF, by decide⟩,
    ⟨{ State.reset with i := 0xFF8 }, 7, 7, 8, by decide⟩⟩

/-- AccessBeyondMemoryRaises: one address too far, and the largest `I`. -/
theorem test_witness_accesses_out_of_range :
    (1 ≤ dataCount (.bcd 0) ∧ 4095 < 0xFFE + dataCount (.bcd 0) - 1) ∧
    (∃ s : State, 1 ≤ dataCount (.loadRegs 0xF) ∧ 4095 < s.i.toNat + dataCount (.loadRegs 0xF) - 1 ∧ s.i = 0xFF1) ∧
    (∃ s : State, 1 ≤ dataCount (.drw 0 0 1) ∧ 4095 < s.i.toNat + dataCount (.drw 0 0 1) - 1 ∧ s.i = 0x1000) ∧
    (∃ s : State, 1 ≤ dataCount (.storeRegs 0) ∧ 4095 < s.i.toNat + dataCount (.storeRegs 0) - 1 ∧ s.i = 0xFFFF) :=
  ⟨by decide, ⟨{ State.reset with i := 0xFF1 }, by decide⟩, ⟨{ State.reset with i := 0x1000 }, by decide⟩,
    ⟨{ State.reset with i := 0xFFFF }, by decide⟩⟩

/-- StoreIsSeenByTheNextFetch, LoadRestoresWhatStoreSaved. -/
theorem test_witness_store_then_read :
    ∃ (s t u : State) (x : Nibble), s.mem.wf = true ∧ 1 ≤ x.toNat ∧ s.i.toNat + x.toNat ≤ 4095 ∧ s.i.toNat = s.pc.toNat + 2 ∧
      exec (.storeRegs x) s = .next t ∧ u.i = t.i ∧ u.mem = t.mem :=
  ⟨{ start 0xF155 with i := 0x202 }, _, _, 1, by decide, by decide, by decide, by decide, rfl, rfl, rfl⟩

/-- CanonicalMemoriesThatReadAlikeAreEqual. -/
theorem test_witness_canonical_memories :
    ∃ m m' : Memory, m.wf = true ∧ m'.wf = true ∧ m ≠ [] ∧ ∀ a, a < 4096 → m.read a = m'.read a :=
  ⟨[(0x200, 0x12)], [(0x200, 0x12)], by decide, by decide, by decide, fun _ _ => rfl⟩

/-- DrawInvertsTheSpritePixels: no row, and the last byte of memory as a row; a pixel in the sprite, by the wrap, and one not. -/
theorem test_witness_draw :
    (∃ (s : State) (n : Nibble), (n.toNat = 0 ∨ s.i.toNat + n.toNat - 1 ≤ 4095) ∧ n = 0 ∧ s.i = 0xFFFF) ∧
    (∃ (s : State) (n : Nibble), (n.toNat = 0 ∨ s.i.toNat + n.toNat - 1 ≤ 4095) ∧ n = 1 ∧ s.i = 0xFFF) ∧
    SpriteBit 63 31 [0xC0, 0xC0] 0 0 ∧ ¬ SpriteBit 63 31 [0x00] 63 31 :=
  ⟨⟨{ State.reset with i := 0xFFFF }, 0, by decide⟩, ⟨{ State.reset with i := 0xFFF }, 1, by decide⟩,
    ⟨1, by decide, 1, by decide, by decide, by decide, by decide⟩,
    fun ⟨r, h, c, _, _, _, hb⟩ => by
      have hr : r = 0 := by simpa using h
      subst hr
      simp at hb⟩

/-- SecondDrawRestoresTheScreen: glyph 0 drawn twice in the corner. -/
theorem test_witness_second_draw :
    ∃ (s t u : State) (x y n : Nibble), exec (.drw x y n) s = .next t ∧ t.fault = s.fault ∧ s.fault = .none ∧ u.fb = t.fb ∧
      u.mem = s.mem ∧ u.i = s.i ∧ u.reg x = s.reg x ∧ u.reg y = s.reg y ∧ n = 5 :=
  ⟨State.reset, _, _, 0, 1, 5, rfl, rfl, rfl, rfl, rfl, rfl, rfl, rfl, rfl⟩

/-- PressStepLatchesTheLowestKey: no key, and keys 7 and 9. -/
theorem test_witness_press :
    (∃ (s : State) (rnd : Byte), s.host = [.step 0 rnd] ∧ s.fault = .none ∧ s.kw = .awaitingPress) ∧
    (∃ (s : State) (rnd : Byte) (k : Nibble), s.host = [.step 0x0280 rnd] ∧ s.fault = .none ∧ s.kw = .awaitingPress ∧
      (0x0280#16).getLsbD k.toNat = true ∧ ∀ j : Nibble, j.toNat < k.toNat → (0x0280#16).getLsbD j.toNat = false) :=
  ⟨⟨{ start 0 with kw := .awaitingPress }, 0, rfl, rfl, rfl⟩,
    ⟨{ start 0 0x0280 with kw := .awaitingPress }, 0, 7, rfl, rfl, rfl, by decide, by decide⟩⟩

/-- ReleaseStepResolvesTheWait: the latched key held, and released while every other is held. -/
theorem test_witness_release :
    (∃ s : State, s.host = [.step 0x0080 0] ∧ s.fault = .none ∧ s.kw = .awaitingRelease ∧ (0x0080#16).getLsbD s.kwKey.toNat = true) ∧
    (∃ s : State, s.host = [.step 0xFF7F 0] ∧ s.fault = .none ∧ s.kw = .awaitingRelease ∧ (0xFF7F#16).getLsbD s.kwKey.toNat = false) :=
  ⟨⟨{ start 0 0x0080 with kw := .awaitingRelease, kwKey := 7 }, rfl, rfl, rfl, by decide⟩,
    ⟨{ start 0 0xFF7F with kw := .awaitingRelease, kwKey := 7 }, rfl, rfl, rfl, by decide⟩⟩

/-- KeyWaitTakesPressThenRelease: every key held at the entry, key 7 pressed, key 7 released. -/
theorem test_witness_key_wait :
    ∃ (s : State) (x k : Nibble) (a b c : BitVec 16), s.fault = .none ∧ s.kw = .running ∧ s.pc.toNat ≤ 4094 ∧
      decodeWord (s.mem.read s.pc.toNat ++ s.mem.read (s.pc.toNat + 1)) = some (.ldVxK x) ∧
      s.host = [.step a 0, .step b 0, .step c 0] ∧ b.getLsbD k.toNat = true ∧
      (∀ j : Nibble, j.toNat < k.toNat → b.getLsbD j.toNat = false) ∧ c.getLsbD k.toNat = false :=
  ⟨{ start 0xF30A with host := [.step 0xFFFF 0, .step 0x0280 0, .step 0xFF7F 0] }, 3, 7, 0xFFFF, 0x0280, 0xFF7F,
    rfl, rfl, by decide, by decide, rfl, by decide, by decide, by decide⟩

/-- StepRunsTheDecodedInstruction: from a queued Step, and from an empty queue; at the last address of a fetch. -/
theorem test_witness_step :
    (∃ (s : State) (i : Instr), s.fault = .none ∧ s.kw = .running ∧ s.pc.toNat ≤ 4094 ∧
      decodeWord (s.mem.read s.pc.toNat ++ s.mem.read (s.pc.toNat + 1)) = some i ∧ s.host = [.step 0 0] ∧ s.pc = 0xFFE) ∧
    (∃ (s : State) (i : Instr), s.fault = .none ∧ s.kw = .running ∧ s.pc.toNat ≤ 4094 ∧
      decodeWord (s.mem.read s.pc.toNat ++ s.mem.read (s.pc.toNat + 1)) = some i ∧ s.host = []) :=
  ⟨⟨{ withMem (start 0) 0xFFE [0x60, 0x05] with pc := 0xFFE }, .ldImm 0 5, rfl, rfl, by decide, by decide, rfl, rfl⟩,
    ⟨{ start 0xA202 with host := [] }, .ldI 0x202, rfl, rfl, by decide, by decide, rfl⟩⟩

/-- IllegalWordRaisesDecodeFailure, FetchBeyondMemoryRaises. -/
theorem test_witness_raising_steps :
    (∃ s : State, s.host = [.step 0 0] ∧ s.fault = .none ∧ s.kw = .running ∧ s.pc.toNat ≤ 4094 ∧
      s.mem.read s.pc.toNat ++ s.mem.read (s.pc.toNat + 1) = 0x5121#16) ∧
    (∃ s : State, s.host = [.step 0 0] ∧ s.fault = .none ∧ s.kw = .running ∧ 4094 < s.pc.toNat ∧ s.pc = 0xFFF) :=
  ⟨⟨start 0x5121, rfl, rfl, rfl, by decide, by decide⟩, ⟨{ start 0 with pc := 0xFFF }, rfl, rfl, rfl, by decide, rfl⟩⟩

/-- FaultsArePrecise: the fetch itself raises, and an instruction does. -/
theorem test_witness_precise_faults :
    (∃ s t : State, s.host = [.step 0 0] ∧ s.fault = .none ∧ step s = .next t ∧ t.fault ≠ .none ∧ t.fault = .fetchOutOfRange) ∧
    (∃ s t : State, s.host = [.step 0 0] ∧ s.fault = .none ∧ step s = .next t ∧ t.fault ≠ .none ∧ t.fault = .stackUnderflow) :=
  ⟨⟨{ start 0 with pc := 0xFFF }, _, rfl, rfl, rfl, by decide, rfl⟩, ⟨start 0x00EE, _, rfl, rfl, rfl, by decide, rfl⟩⟩

/-- HaltedMachineNeverChanges, and both clauses of TickCountsBothTimersDown. -/
theorem test_witness_halted_and_ticks :
    (∃ s : State, s.fault ≠ .none ∧ (∀ a, HostEvent.init a ∉ s.host) ∧ s.host = [.tick]) ∧
    (∃ s : State, s.host = [.tick] ∧ s.fault = .none) :=
  ⟨⟨{ State.reset with fault := .decodeFailure, host := [.tick] }, by simp, by simp, rfl⟩, ⟨{ State.reset with host := [.tick] }, rfl, rfl⟩⟩

/-- TicksFloorTheTimersAtZero: eleven Ticks (example S8). -/
theorem test_witness_eleven_ticks : ∃ s : State, s.fault = .none ∧ s.host = List.replicate 11 .tick ++ [] :=
  ⟨{ State.reset with host := List.replicate 11 .tick }, rfl, rfl⟩

/-- TickCommutesWithOtherInstructions, and the exec-goes-on statements: InstructionsWriteOnlyTheirTableEntries, PcFollowsItsContract. -/
theorem test_witness_exec_goes_on :
    ∃ (i : Instr) (s t : State), (∀ x, i ≠ .ldVxDt x ∧ i ≠ .ldDtVx x ∧ i ≠ .ldStVx x) ∧ exec i s = .next t ∧ t.fault = s.fault :=
  ⟨.addReg 1 2, State.reset, _, by simp, rfl, rfl⟩

/-- InputsAndTimersAreReadByTheirInstructionsOnly, clause by clause: RND for `keys`, SKP for `rnd`, the writer of `dt` and SKNP for
`dt`, the writer of `st` and LD Vx, DT for `st`. -/
theorem test_witness_input_readers :
    (∃ t : State, exec (.rnd 1 0xFF) State.reset = .next t ∧ ∀ x, Instr.rnd 1 0xFF ≠ .skp x ∧ Instr.rnd 1 0xFF ≠ .sknp x) ∧
    (∃ t : State, exec (.skp 1) State.reset = .next t ∧ ∀ x kk, Instr.skp 1 ≠ .rnd x kk) ∧
    (∃ t : State, exec (.ldDtVx 1) State.reset = .next t ∧ (∀ x, Instr.ldDtVx 1 ≠ .ldVxDt x) ∧ ∃ x, Instr.ldDtVx 1 = .ldDtVx x) ∧
    (∃ t : State, exec (.sknp 1) State.reset = .next t ∧ ∀ x, Instr.sknp 1 ≠ .ldVxDt x ∧ Instr.sknp 1 ≠ .ldDtVx x) ∧
    (∃ t : State, exec (.ldStVx 1) State.reset = .next t ∧ ∃ x, Instr.ldStVx 1 = .ldStVx x) ∧
    (∃ t : State, exec (.ldVxDt 1) State.reset = .next t ∧ ∀ x, Instr.ldVxDt 1 ≠ .ldStVx x) :=
  ⟨⟨_, rfl, by simp⟩, ⟨_, rfl, by simp⟩, ⟨_, rfl, by simp, 1, rfl⟩, ⟨_, rfl, by simp⟩, ⟨_, rfl, 1, rfl⟩, ⟨_, rfl, by simp⟩⟩

/-- TimersRiseOnlyByTheirInstruction: both timers. -/
theorem test_witness_timers_rise :
    (∃ s t : State, step s = .next t ∧ s.dt.toNat < t.dt.toNat) ∧ (∃ s t : State, step s = .next t ∧ s.st.toNat < t.st.toNat) :=
  ⟨⟨withReg (start 0xF115) 1 0x2A, _, rfl, by decide⟩, ⟨withReg (start 0xF118) 1 0x05, _, rfl, by decide⟩⟩

/-- InitSetsEveryElement: an odd-length program, and the longest; OverlongInitIsRefused: one byte more, and a short font. -/
theorem test_witness_init :
    (∃ (s : State) (a : InitArgs), s.host = [.init a] ∧ a.font.length = 80 ∧ a.program.length ≤ 3584 ∧ a.program = [0x12, 0x00, 0xAB]) ∧
    (∃ (s : State) (a : InitArgs), s.host = [.init a] ∧ a.font.length = 80 ∧ a.program.length ≤ 3584 ∧ a.program.length = 3584) ∧
    (∃ (s : State) (a : InitArgs), s.host = [.init a] ∧ 3584 < a.program.length) ∧
    (∃ (s : State) (a : InitArgs), s.host = [.init a] ∧ a.font.length ≠ 80) :=
  ⟨⟨{ State.reset with host := [.init (initOf [0x12, 0x00, 0xAB])] }, initOf [0x12, 0x00, 0xAB], rfl, by decide, by decide, rfl⟩,
    ⟨{ State.reset with host := [.init (initOf (List.replicate 3584 0))] }, initOf (List.replicate 3584 0), rfl, by decide,
      List.length_replicate.le, List.length_replicate⟩,
    ⟨{ State.reset with host := [.init (initOf (List.replicate 3585 0))] }, initOf (List.replicate 3585 0), rfl,
      by rw [initOf, List.length_replicate]; decide⟩,
    ⟨{ State.reset with host := [.init ⟨[], [], 0⟩] }, ⟨[], [], 0⟩, rfl, by decide⟩⟩

/-- PlacedWordIsRunByTheNextStep: at the last address of a fetch, and with a `pc` beyond it. -/
theorem test_witness_placed_word :
    decodeTableWord 16 0xA202 = some (.ldI 0x202) ∧ (∃ s : State, s.mem.wf = true ∧ s.pc.toNat ≤ 4094 ∧ s.pc = 0xFFE) ∧
    (∃ s : State, s.mem.wf = true ∧ 4094 < s.pc.toNat) :=
  ⟨by decide, ⟨{ State.reset with pc := 0xFFE }, by decide⟩, ⟨{ State.reset with pc := 0x10FE }, by decide⟩⟩

/-- A state in the key wait with a full stack. -/
def waitingState : State :=
  { start 0xF30A with kw := .awaitingPress, kwReg := 3, sp := 16, stack := Vector.replicate 16 0xFFE }

/-- EveryStepKeepsTheInvariant, StepsNeverStopExceptOnIllegalInit. -/
theorem test_witness_invariant : ∃ s t : State, Inv s ∧ step s = .next t ∧ s.kw ≠ .running ∧ s.sp.toNat = 16 :=
  ⟨waitingState, _, ⟨by decide, by decide, fun j h _ => by simp [waitingState], by decide, fun _ => ⟨rfl, by decide, by decide⟩⟩,
    rfl, by decide, by decide⟩

/-- ReturnGoesPastItsCall: the first and the sixteenth depth. -/
theorem test_witness_call_then_return :
    (∃ (s t u : State) (nnn : Addr12), s.sp.toNat < 16 ∧ exec (.call nnn) s = .next t ∧ u.sp = t.sp ∧ u.stack = t.stack ∧ s.sp = 0) ∧
    (∃ (s t u : State) (nnn : Addr12), s.sp.toNat < 16 ∧ exec (.call nnn) s = .next t ∧ u.sp = t.sp ∧ u.stack = t.stack ∧ s.sp = 15) :=
  ⟨⟨State.reset, _, _, 0x300, by decide, rfl, rfl, rfl, rfl⟩, ⟨{ State.reset with sp := 15 }, _, _, 0x300, by decide, rfl, rfl, rfl, rfl⟩⟩

end Sys2Proof.Tests
end

section
/-! SUPPORT. The skips with a constant, SE and SNE (R104, R105), and the rules every conditional skip shares: what `setPc` and
`skipIf` leave unchanged, and where `skipIf` goes. -/

namespace Sys2Proof.Machine

/-- A write of `pc` is inside every frame. -/
theorem unchanged_setPc (w : Writes) (s : State) (a : Word) : Unchanged w s (s.setPc a) where
  regs _ _ := rfl
  index _ := rfl
  stack _ := ⟨rfl, rfl⟩
  delay _ := rfl
  sound _ := rfl
  screen _ := rfl
  wait _ := ⟨rfl, rfl⟩
  kwKey := rfl
  memory _ _ := rfl
  ir := rfl
  latch := ⟨rfl, rfl⟩
  inputs := ⟨rfl, rfl⟩
  host := ⟨rfl, rfl⟩

theorem unchanged_skipIf (w : Writes) (s : State) (c : Bool) : Unchanged w s (s.skipIf c) :=
  unchanged_setPc w s _

/-- R100 b as an equation of numbers, the 16-bit wrap included. -/
theorem toNat_skipIf_pc (s : State) (c : Bool) :
    (s.skipIf c).pc.toNat = (s.pc.toNat + if c then 4 else 2) % 65536 := by
  cases c with
  | true => exact BitVec.toNat_add s.pc 4#16
  | false => exact BitVec.toNat_add s.pc 2#16

theorem exec_seImm (x : Nibble) (kk : Byte) (s : State) : exec (.seImm x kk) s = .next (s.skipIf (s.reg x == kk)) := rfl

theorem exec_sneImm (x : Nibble) (kk : Byte) (s : State) : exec (.sneImm x kk) s = .next (s.skipIf (s.reg x != kk)) := rfl

theorem decodeWord_seImm (x : Nibble) (kk : Byte) : decodeWord (wordXKK 0x3 x kk) = some (.seImm x kk) := by
  simp [decodeWord]

theorem decodeWord_sneImm (x : Nibble) (kk : Byte) : decodeWord (wordXKK 0x4 x kk) = some (.sneImm x kk) := by
  simp [decodeWord]

/-- SE skips on equality, by 4 instead of 2 (R104). -/
theorem toNat_seImm_pc (s : State) (x : Nibble) (kk : Byte) :
    (s.skipIf (s.reg x == kk)).pc.toNat = (s.pc.toNat + if s.reg x = kk then 4 else 2) % 65536 := by
  simp only [toNat_skipIf_pc, beq_iff_eq]

/-- SNE skips on inequality, so its two distances stand the other way round (R105). -/
theorem toNat_sneImm_pc (s : State) (x : Nibble) (kk : Byte) :
    (s.skipIf (s.reg x != kk)).pc.toNat = (s.pc.toNat + if s.reg x = kk then 2 else 4) % 65536 := by
  simp only [toNat_skipIf_pc, bne_iff_ne, ne_eq, ite_not]

/-- Settles O11: each of the two is a `skipIf`, whose target and frame are known. -/
theorem constantSkipsAdvanceByTwoOrFour : Obligations.ConstantSkipsAdvanceByTwoOrFour := by
  unfold Obligations.ConstantSkipsAdvanceByTwoOrFour
  intro s x kk
  exact ⟨decodeWord_seImm x kk, decodeWord_sneImm x kk, _, _, exec_seImm x kk s, exec_sneImm x kk s,
    toNat_seImm_pc s x kk, toNat_sneImm_pc s x kk, unchanged_skipIf {} s _, unchanged_skipIf {} s _⟩

end Sys2Proof.Machine
end

section
/-! SUPPORT. The ALU instructions of `41_alu.md`: the rules that the writes of a register, of a flag and of `pc` share (their
frame, where they leave `pc`, what `VF` holds), and the loads, the additions and the subtractions (R121, R122, R123, R127, R128,
R130). -/

namespace Sys2Proof.Machine

/-! ## The frame of a register write -/

/-- Two changes inside one frame are inside it together. -/
theorem Unchanged.trans {w : Writes} {s t u : State} (h₁ : Unchanged w s t) (h₂ : Unchanged w t u) : Unchanged w s u where
  regs y hy := (h₂.regs y hy).trans (h₁.regs y hy)
  index h := (h₂.index h).trans (h₁.index h)
  stack h := ⟨(h₂.stack h).1.trans (h₁.stack h).1, (h₂.stack h).2.trans (h₁.stack h).2⟩
  delay h := (h₂.delay h).trans (h₁.delay h)
  sound h := (h₂.sound h).trans (h₁.sound h)
  screen h := (h₂.screen h).trans (h₁.screen h)
  wait h := ⟨(h₂.wait h).1.trans (h₁.wait h).1, (h₂.wait h).2.trans (h₁.wait h).2⟩
  kwKey := h₂.kwKey.trans h₁.kwKey
  memory a ha := (h₂.memory a ha).trans (h₁.memory a ha)
  ir := h₂.ir.trans h₁.ir
  latch := ⟨h₂.latch.1.trans h₁.latch.1, h₂.latch.2.trans h₁.latch.2⟩
  inputs := ⟨h₂.inputs.1.trans h₁.inputs.1, h₂.inputs.2.trans h₁.inputs.2⟩
  host := ⟨h₂.host.1.trans h₁.host.1, h₂.host.2.trans h₁.host.2⟩

/-- A write of `V[x]` is inside every frame that names `x`. -/
theorem unchanged_setReg {w : Writes} {x : Nibble} (hx : x ∈ w.regs) (s : State) (b : Byte) :
    Unchanged w s (s.setReg x b) where
  regs _ hy := s.reg_setReg_ne b (ne_of_mem_of_not_mem hx hy)
  index _ := rfl
  stack _ := ⟨rfl, rfl⟩
  delay _ := rfl
  sound _ := rfl
  screen _ := rfl
  wait _ := ⟨rfl, rfl⟩
  kwKey := rfl
  memory _ _ := rfl
  ir := rfl
  latch := ⟨rfl, rfl⟩
  inputs := ⟨rfl, rfl⟩
  host := ⟨rfl, rfl⟩

theorem unchanged_advance (w : Writes) (s : State) : Unchanged w s s.advance :=
  unchanged_setPc w s _

/-- A register written with what it holds: the state is the same. -/
theorem State.setReg_reg_self (s : State) (x : Nibble) : s.setReg x (s.reg x) = s := by
  have hv : s.v.set x.toNat (s.reg x) = s.v := Vector.set_getElem_self x.isLt
  rw [State.setReg, hv]

/-! ## The two shapes of an ALU instruction (R120) -/

theorem unchanged_aluResult (s : State) (x : Nibble) (r : Byte) : Unchanged { regs := [x] } s (s.aluResult x r) :=
  (unchanged_setReg (by simp) s r).trans (unchanged_advance _ _)

theorem unchanged_aluFlagged (s : State) (x : Nibble) (r : Byte) (f : Bool) :
    Unchanged { regs := [x, vf] } s (s.aluFlagged x r f) :=
  ((unchanged_setReg (by simp) s r).trans (unchanged_setReg (by simp) _ (flagByte f))).trans (unchanged_advance _ _)

theorem toNat_aluResult_pc (s : State) (x : Nibble) (r : Byte) :
    (s.aluResult x r).pc.toNat = (s.pc.toNat + 2) % 65536 :=
  BitVec.toNat_add s.pc 2#16

theorem toNat_aluFlagged_pc (s : State) (x : Nibble) (r : Byte) (f : Bool) :
    (s.aluFlagged x r f).pc.toNat = (s.pc.toNat + 2) % 65536 :=
  BitVec.toNat_add s.pc 2#16

theorem State.reg_aluResult_same (s : State) (x : Nibble) (r : Byte) : (s.aluResult x r).reg x = r := by
  rw [State.reg_aluResult, if_pos rfl]

/-- The result stands in `V[x]` where the flag does not overwrite it. -/
theorem State.reg_aluFlagged_same (s : State) {x : Nibble} (r : Byte) (f : Bool) (hx : x ≠ vf) :
    (s.aluFlagged x r f).reg x = r := by
  rw [State.reg_aluFlagged, if_neg hx, if_pos rfl]

/-- A flag that decides `p` stands in `VF` as the number R21 gives it, whatever `x` is. -/
theorem State.reg_vf_aluFlagged_decide (s : State) (x : Nibble) (r : Byte) (p : Prop) [Decidable p] :
    (s.aluFlagged x r (decide p)).reg vf = if p then 1 else 0 := by
  simp [State.reg_aluFlagged, flagByte_eq]

/-! ## Arithmetic on bytes -/

/-- The difference of two bytes as a number, in the order R128 and R130 write it. -/
theorem toNat_byte_sub (a b : Byte) : (a - b).toNat = (a.toNat + 256 - b.toNat) % 256 := by
  have := b.isLt
  rw [BitVec.toNat_sub]
  omega

/-! ## The instructions: their word and their meaning -/

theorem decodeWord_ldImm (x : Nibble) (kk : Byte) : decodeWord (wordXKK 0x6 x kk) = some (.ldImm x kk) := by
  simp [decodeWord]

theorem decodeWord_addImm (x : Nibble) (kk : Byte) : decodeWord (wordXKK 0x7 x kk) = some (.addImm x kk) := by
  simp [decodeWord]

theorem decodeWord_ldReg (x y : Nibble) : decodeWord (wordXYN 0x8 x y 0x0) = some (.ldReg x y) := by
  simp [decodeWord, decodeGroup8]

theorem decodeWord_addReg (x y : Nibble) : decodeWord (wordXYN 0x8 x y 0x4) = some (.addReg x y) := by
  simp [decodeWord, decodeGroup8]

theorem decodeWord_sub (x y : Nibble) : decodeWord (wordXYN 0x8 x y 0x5) = some (.sub x y) := by
  simp [decodeWord, decodeGroup8]

theorem decodeWord_subn (x y : Nibble) : decodeWord (wordXYN 0x8 x y 0x7) = some (.subn x y) := by
  simp [decodeWord, decodeGroup8]

theorem exec_ldImm (x : Nibble) (kk : Byte) (s : State) : exec (.ldImm x kk) s = .next (s.aluResult x kk) := rfl

theorem exec_addImm (x : Nibble) (kk : Byte) (s : State) :
    exec (.addImm x kk) s = .next (s.aluResult x (s.reg x + kk)) := rfl

theorem exec_ldReg (x y : Nibble) (s : State) : exec (.ldReg x y) s = .next (s.aluResult x (s.reg y)) := rfl

theorem exec_addReg (x y : Nibble) (s : State) : exec (.addReg x y) s =
    .next (s.aluFlagged x (s.reg x + s.reg y) (decide (255 < (s.reg x).toNat + (s.reg y).toNat))) := rfl

theorem exec_sub (x y : Nibble) (s : State) : exec (.sub x y) s =
    .next (s.aluFlagged x (s.reg x - s.reg y) (decide ((s.reg y).toNat < (s.reg x).toNat))) := rfl

theorem exec_subn (x y : Nibble) (s : State) : exec (.subn x y) s =
    .next (s.aluFlagged x (s.reg y - s.reg x) (decide ((s.reg x).toNat < (s.reg y).toNat))) := rfl

/-! ## The obligations -/

/-- Settles O18: the sum is `V[x]` where the flag does not win, and the flag decides the carry. -/
theorem addSetsSumAndCarry : Obligations.AddSetsSumAndCarry := by
  unfold Obligations.AddSetsSumAndCarry
  intro s x y
  refine ⟨decodeWord_addReg x y, _, exec_addReg x y s, fun hx => ?_, s.reg_vf_aluFlagged_decide x _ _,
    toNat_aluFlagged_pc s x _ _, unchanged_aluFlagged s x _ _⟩
  rw [s.reg_aluFlagged_same _ _ hx]
  exact BitVec.toNat_add (s.reg x) (s.reg y)

/-- Settles O19: the two differ in the order of their operands only, in the difference and in the flag. -/
theorem subtractSetsDifferenceAndStrictFlag : Obligations.SubtractSetsDifferenceAndStrictFlag := by
  unfold Obligations.SubtractSetsDifferenceAndStrictFlag
  intro s x y
  refine ⟨decodeWord_sub x y, decodeWord_subn x y, _, _, exec_sub x y s, exec_subn x y s, fun hx => ⟨?_, ?_⟩,
    s.reg_vf_aluFlagged_decide x _ _, s.reg_vf_aluFlagged_decide x _ _, toNat_aluFlagged_pc s x _ _,
    toNat_aluFlagged_pc s x _ _, unchanged_aluFlagged s x _ _, unchanged_aluFlagged s x _ _⟩
  · rw [s.reg_aluFlagged_same _ _ hx, toNat_byte_sub]
  · rw [s.reg_aluFlagged_same _ _ hx, toNat_byte_sub]

/-- Settles O15: each writes `V[x]` once, the sum modulo 256. -/
theorem constantLoadAndAddWriteOneRegister : Obligations.ConstantLoadAndAddWriteOneRegister := by
  unfold Obligations.ConstantLoadAndAddWriteOneRegister
  intro s x kk
  refine ⟨decodeWord_ldImm x kk, decodeWord_addImm x kk, _, _, exec_ldImm x kk s, exec_addImm x kk s,
    s.reg_aluResult_same x kk, ?_, toNat_aluResult_pc s x _, toNat_aluResult_pc s x _, unchanged_aluResult s x _,
    unchanged_aluResult s x _⟩
  rw [s.reg_aluResult_same]
  exact BitVec.toNat_add (s.reg x) kk

/-- Settles O16: with `x = y` the write gives `V[x]` what it holds, so only the advance of `pc` is left. -/
theorem registerCopyWritesOneRegister : Obligations.RegisterCopyWritesOneRegister := by
  unfold Obligations.RegisterCopyWritesOneRegister
  intro s x y
  refine ⟨decodeWord_ldReg x y, _, exec_ldReg x y s, s.reg_aluResult_same x _, toNat_aluResult_pc s x _,
    unchanged_aluResult s x _, ?_⟩
  rintro rfl
  rw [State.aluResult, State.setReg_reg_self]
  exact unchanged_advance {} s

end Sys2Proof.Machine
end

section
/-! SUPPORT. The loads of the index register, LD I and LD F (R141, R143), and the rules a write of `I` shares: its frame, and
where the advance of `pc` ends. -/

namespace Sys2Proof.Machine

/-! ## A write of `I` and the advance of `pc` -/

/-- A write of `I` is inside every frame that names the index. -/
theorem unchanged_setI {w : Writes} (hw : w.index = true) (s : State) (a : Word) : Unchanged w s (s.setI a) where
  regs _ _ := rfl
  index h := nomatch hw.symm.trans h
  stack _ := ⟨rfl, rfl⟩
  delay _ := rfl
  sound _ := rfl
  screen _ := rfl
  wait _ := ⟨rfl, rfl⟩
  kwKey := rfl
  memory _ _ := rfl
  ir := rfl
  latch := ⟨rfl, rfl⟩
  inputs := ⟨rfl, rfl⟩
  host := ⟨rfl, rfl⟩

theorem unchanged_setI_advance (s : State) (a : Word) : Unchanged { index := true } s (s.setI a).advance :=
  (unchanged_setI rfl s a).trans (unchanged_advance _ _)

/-- R100 a as an equation of numbers, the 16-bit wrap included. -/
theorem toNat_advance_pc (s : State) : s.advance.pc.toNat = (s.pc.toNat + 2) % 65536 :=
  BitVec.toNat_add s.pc 2#16

/-! ## The addresses loaded, as numbers -/

theorem toNat_zext16 (nnn : Addr12) : (zext16 nnn).toNat = nnn.toNat :=
  BitVec.toNat_setWidth_of_le (by decide)

/-- Five times a byte is at most 1275, so the 16 bits of `I` hold the whole product (R143). -/
theorem toNat_glyphAddress (v : Byte) : (glyphAddress v).toNat = 5 * v.toNat := by
  have hv := v.isLt
  rw [glyphAddress, BitVec.toNat_ofNat]
  omega

/-! ## The instructions: their word and their meaning -/

theorem decodeWord_ldI (nnn : Addr12) : decodeWord (wordNNN 0xA nnn) = some (.ldI nnn) := by
  simp [decodeWord]

theorem decodeWord_ldF (x : Nibble) : decodeWord (wordXKK 0xF x 0x29) = some (.ldF x) := by
  simp [decodeWord, decodeGroupF]

theorem exec_ldI (nnn : Addr12) (s : State) : exec (.ldI nnn) s = .next (s.setI (zext16 nnn)).advance := rfl

theorem exec_ldF (x : Nibble) (s : State) : exec (.ldF x) s = .next (s.setI (glyphAddress (s.reg x))).advance := rfl

/-- Settles O22: each is a write of `I` and an advance of `pc`, and the address it writes fits 16 bits. -/
theorem indexLoadsSetTheIndex : Obligations.IndexLoadsSetTheIndex := by
  unfold Obligations.IndexLoadsSetTheIndex
  intro s nnn x
  exact ⟨decodeWord_ldI nnn, decodeWord_ldF x, _, _, exec_ldI nnn s, exec_ldF x s, toNat_zext16 nnn,
    toNat_glyphAddress (s.reg x), toNat_advance_pc _, toNat_advance_pc _, unchanged_setI_advance s _,
    unchanged_setI_advance s _⟩

end Sys2Proof.Machine
end

section
/-! SUPPORT. The clear of the screen, CLS (R151), and the rule the display instructions share: the frame of a write of the
framebuffer. -/

namespace Sys2Proof.Machine

/-- A write of the framebuffer is inside every frame that names the screen. -/
theorem unchanged_setFb {w : Writes} (hw : w.screen = true) (s : State) (fb : Framebuffer) : Unchanged w s (s.setFb fb) where
  regs _ _ := rfl
  index _ := rfl
  stack _ := ⟨rfl, rfl⟩
  delay _ := rfl
  sound _ := rfl
  screen h := nomatch hw.symm.trans h
  wait _ := ⟨rfl, rfl⟩
  kwKey := rfl
  memory _ _ := rfl
  ir := rfl
  latch := ⟨rfl, rfl⟩
  inputs := ⟨rfl, rfl⟩
  host := ⟨rfl, rfl⟩

theorem unchanged_setFb_advance (s : State) (fb : Framebuffer) : Unchanged { screen := true } s (s.setFb fb).advance :=
  (unchanged_setFb rfl s fb).trans (unchanged_advance _ _)

theorem decodeWord_cls : decodeWord 0x00E0#16 = some .cls := rfl

theorem exec_cls (s : State) : exec .cls s = .next (s.setFb clearFramebuffer).advance := rfl

/-- Settles O31: CLS writes the clear framebuffer and advances `pc`, and every pixel of the clear framebuffer is 0. -/
theorem clearUnsetsEveryPixel : Obligations.ClearUnsetsEveryPixel := by
  unfold Obligations.ClearUnsetsEveryPixel
  refine ⟨decodeWord_cls, fun s => ?_⟩
  exact ⟨_, exec_cls s, fun _ _ hX hY => pixel_clear hX hY, toNat_advance_pc _, unchanged_setFb_advance s _⟩

end Sys2Proof.Machine
end

section
/-! SUPPORT. The release that ends a key wait (R165): the step of a machine that awaits it, the frame of a write of the wait's tag,
and what the released wait leaves in `V[kw_reg]` and `pc`. -/

namespace Sys2Proof.Machine

/-- A write of the wait's tag is inside every frame that names the wait. -/
theorem unchanged_setKw {w : Writes} (hw : w.wait = true) (s : State) (k : KeyWait) : Unchanged w s { s with kw := k } where
  regs _ _ := rfl
  index _ := rfl
  stack _ := ⟨rfl, rfl⟩
  delay _ := rfl
  sound _ := rfl
  screen _ := rfl
  wait h := nomatch hw.symm.trans h
  kwKey := rfl
  memory _ _ := rfl
  ir := rfl
  latch := ⟨rfl, rfl⟩
  inputs := ⟨rfl, rfl⟩
  host := ⟨rfl, rfl⟩

/-- Exit 3 of R170. -/
theorem runStep_awaitingRelease {s : State} (hfault : s.fault = .none) (hkw : s.kw = .awaitingRelease) :
    runStep s = .next s.pollRelease := by
  simp [runStep, hfault, hkw]

/-- A queued Step of a machine that awaits the release polls it, with the event's samples presented. -/
theorem step_awaitingRelease {s : State} {keys : BitVec 16} {rnd : Byte} {rest : List HostEvent}
    (hhost : s.host = .step keys rnd :: rest) (hfault : s.fault = .none) (hkw : s.kw = .awaitingRelease) :
    step s = .next (State.pollRelease { s with host := rest, keysIn := keys, rndIn := rnd }) := by
  rw [step_cons s hhost]
  exact runStep_awaitingRelease hfault hkw

/-- The released poll is a register write, an advance of `pc` and a write of the tag, each inside the frame. -/
theorem unchanged_pollRelease_released {s : State} (h : s.key s.kwKey = false) :
    Unchanged { regs := [s.kwReg], wait := true } s s.pollRelease := by
  rw [s.pollRelease_released h]
  exact ((unchanged_setReg (by simp) s _).trans (unchanged_advance _ _)).trans (unchanged_setKw rfl _ _)

theorem kw_pollRelease_released {s : State} (h : s.key s.kwKey = false) : s.pollRelease.kw = .running := by
  rw [s.pollRelease_released h]

theorem kwReg_pollRelease (s : State) : s.pollRelease.kwReg = s.kwReg := by
  unfold State.pollRelease
  split <;> rfl

theorem toNat_reg_pollRelease_released {s : State} (h : s.key s.kwKey = false) :
    (s.pollRelease.reg s.kwReg).toNat = s.kwKey.toNat := by
  have hreg : s.pollRelease.reg s.kwReg = s.kwKey.setWidth 8 := by
    rw [s.pollRelease_released h]
    exact s.reg_setReg_same s.kwReg _
  rw [hreg]
  exact BitVec.toNat_setWidth_of_le (by decide)

theorem toNat_pc_pollRelease_released {s : State} (h : s.key s.kwKey = false) :
    s.pollRelease.pc.toNat = (s.pc.toNat + 2) % 65536 := by
  rw [s.pollRelease_released h]
  exact toNat_advance_pc (s.setReg s.kwReg _)

/-- Settles O38: the step is the poll of the state with the samples presented, and the latched key decides which branch it takes. -/
theorem releaseStepResolvesTheWait : Obligations.ReleaseStepResolvesTheWait := by
  unfold Obligations.ReleaseStepResolvesTheWait
  intro s keys rnd rest hhost hfault hkw
  rw [step_awaitingRelease hhost hfault hkw]
  constructor
  · intro hheld
    exact congrArg _ (State.pollRelease_held _ hheld)
  · intro hreleased
    have hframe := unchanged_pollRelease_released (s := { s with host := rest, keysIn := keys, rndIn := rnd }) hreleased
    exact ⟨_, rfl, kw_pollRelease_released hreleased, kwReg_pollRelease _, hframe.kwKey,
      toNat_reg_pollRelease_released hreleased, toNat_pc_pollRelease_released hreleased, hframe⟩

end Sys2Proof.Machine
end

section
/-! SUPPORT. The encoding (`30_encoding.md`): decode of encode, encode of decode, and the decoder against the opcode map and
against the list of illegal words. The bridge between them: a row's mask fixes fields of the word, and which of these fields
decode is a fact about the 34 rows. -/

namespace Sys2Proof.Machine

/-! ## Decode of encode -/

/-- Decode of encode, by the format of the word: the fields of a word are those it was put together from. -/
theorem decodeWord_encode (i : Instr) : decodeWord (encode i) = some i := by
  cases i with
  | cls | ret => rfl
  | jp | call | seImm | sneImm | seReg | ldImm | addImm | sneReg | ldI | jpV0 | rnd | drw => simp [encode, decodeWord]
  | ldReg | orReg | andReg | xorReg | addReg | sub | shr | subn | shl => simp [encode, decodeWord, decodeGroup8]
  | skp | sknp => simp [encode, decodeWord, decodeGroupE]
  | ldVxDt | ldVxK | ldDtVx | ldStVx | addI | ldF | bcd | storeRegs | loadRegs => simp [encode, decodeWord, decodeGroupF]

theorem decode_encodeBytes_append (i : Instr) (rest : List Byte) : decode (encodeBytes i ++ rest) = .ok (i, rest) := by
  show decode (highByte (encode i) :: lowByte (encode i) :: rest) = _
  rw [decode_cons, wordOfBytes_bytes, decodeWord_encode]

/-- Settles O1: the bytes of a word are its two halves, so both claims are decode of encode. -/
theorem decodeOfEncodeIsTheInstruction : Obligations.DecodeOfEncodeIsTheInstruction := by
  unfold Obligations.DecodeOfEncodeIsTheInstruction
  intro i rest _
  exact ⟨decodeWord_encode i, decode_encodeBytes_append i rest⟩

/-! ## Encode of decode -/

section
variable {w : Word} {op n : Nibble} {kk : Byte}

theorem wordNNN_of_op (h : fieldOp w = op) : wordNNN op (fieldNNN w) = w := by
  rw [← h, wordNNN_fields]

theorem wordXKK_of_op (h : fieldOp w = op) : wordXKK op (fieldX w) (fieldKK w) = w := by
  rw [← h, wordXKK_fields]

theorem wordXKK_of_op_kk (h : fieldOp w = op) (hk : fieldKK w = kk) : wordXKK op (fieldX w) kk = w := by
  rw [← hk, wordXKK_of_op h]

theorem wordXYN_of_op (h : fieldOp w = op) : wordXYN op (fieldX w) (fieldY w) (fieldN w) = w := by
  rw [← h, wordXYN_fields]

theorem wordXYN_of_op_n (h : fieldOp w = op) (hn : fieldN w = n) : wordXYN op (fieldX w) (fieldY w) n = w := by
  rw [← hn, wordXYN_of_op h]

end

theorem encode_of_decodeGroup0 {w : Word} {i : Instr} (h : decodeGroup0 w = some i) : encode i = w := by
  unfold decodeGroup0 at h
  split at h
  · next hw => cases h; exact hw.symm
  · split at h
    · next hw => cases h; exact hw.symm
    · cases h

theorem encode_of_decodeGroup8 {w : Word} {i : Instr} (hop : fieldOp w = 0x8#4) (h : decodeGroup8 w = some i) :
    encode i = w := by
  unfold decodeGroup8 at h
  split at h
  case h_10 => cases h
  all_goals
    next hn =>
      cases h
      exact wordXYN_of_op_n hop (BitVec.eq_of_toNat_eq hn)

theorem encode_of_decodeGroupE {w : Word} {i : Instr} (hop : fieldOp w = 0xE#4) (h : decodeGroupE w = some i) :
    encode i = w := by
  unfold decodeGroupE at h
  split at h
  case h_3 => cases h
  all_goals
    next hk =>
      cases h
      exact wordXKK_of_op_kk hop (BitVec.eq_of_toNat_eq hk)

theorem encode_of_decodeGroupF {w : Word} {i : Instr} (hop : fieldOp w = 0xF#4) (h : decodeGroupF w = some i) :
    encode i = w := by
  unfold decodeGroupF at h
  split at h
  case h_10 => cases h
  all_goals
    next hk =>
      cases h
      exact wordXKK_of_op_kk hop (BitVec.eq_of_toNat_eq hk)

/-- Groups 5 and 9, whose function nibble must be 0. -/
theorem encode_of_decode_ite {w : Word} {i j : Instr} {op : Nibble} (hop : fieldOp w = op)
    (hj : encode j = wordXYN op (fieldX w) (fieldY w) 0#4) (h : (if fieldN w = 0#4 then some j else none) = some i) :
    encode i = w := by
  split at h
  · next hn =>
      cases h
      rw [hj, wordXYN_of_op_n hop hn]
  · cases h

/-- Encode of decode, arm by arm: the group is the `op` field, and every other fixed field was tested. -/
theorem encode_of_decodeWord {w : Word} {i : Instr} (h : decodeWord w = some i) : encode i = w := by
  unfold decodeWord at h
  split at h
  case h_1 hop => exact encode_of_decodeGroup0 h
  case h_2 hop | h_3 hop | h_11 hop | h_12 hop =>
    cases h
    exact wordNNN_of_op (BitVec.eq_of_toNat_eq hop)
  case h_4 hop | h_5 hop | h_7 hop | h_8 hop | h_13 hop =>
    cases h
    exact wordXKK_of_op (BitVec.eq_of_toNat_eq hop)
  case h_6 hop => exact encode_of_decode_ite (op := 0x5#4) (BitVec.eq_of_toNat_eq hop) rfl h
  case h_10 hop => exact encode_of_decode_ite (op := 0x9#4) (BitVec.eq_of_toNat_eq hop) rfl h
  case h_9 hop => exact encode_of_decodeGroup8 (BitVec.eq_of_toNat_eq hop) h
  case h_14 hop =>
    cases h
    exact wordXYN_of_op (BitVec.eq_of_toNat_eq hop)
  case h_15 hop => exact encode_of_decodeGroupE (BitVec.eq_of_toNat_eq hop) h
  case h_16 hop => exact encode_of_decodeGroupF (BitVec.eq_of_toNat_eq hop) h
  case h_17 => cases h

/-- Settles O2. -/
theorem encodeOfDecodeIsTheWord : Obligations.EncodeOfDecodeIsTheWord := by
  unfold Obligations.EncodeOfDecodeIsTheWord
  exact fun _ _ => encode_of_decodeWord

/-! ## The illegal words (R77) -/

theorem decodeGroup0_eq_none_iff (w : Word) : decodeGroup0 w = none ↔ w ≠ 0x00E0#16 ∧ w ≠ 0x00EE#16 := by
  unfold decodeGroup0
  split
  · simp [*]
  · split <;> simp [*]

theorem decodeGroup8_eq_none_iff (w : Word) :
    decodeGroup8 w = none ↔ fieldN w ∈ [0x8#4, 0x9#4, 0xA#4, 0xB#4, 0xC#4, 0xD#4, 0xF#4] := by
  have hn := (fieldN w).isLt
  unfold decodeGroup8
  simp only [List.mem_cons, List.not_mem_nil, or_false, ← BitVec.toNat_inj]
  split
  case h_10 =>
    simp only [imp_false] at *
    simp
    omega
  all_goals simp [*]

theorem decodeGroupE_eq_none_iff (w : Word) : decodeGroupE w = none ↔ fieldKK w ∉ [0x9E#8, 0xA1#8] := by
  unfold decodeGroupE
  simp only [List.mem_cons, List.not_mem_nil, or_false, ← BitVec.toNat_inj]
  split <;> simp_all

theorem decodeGroupF_eq_none_iff (w : Word) : decodeGroupF w = none ↔
    fieldKK w ∉ [0x07#8, 0x0A#8, 0x15#8, 0x18#8, 0x1E#8, 0x29#8, 0x33#8, 0x55#8, 0x65#8] := by
  unfold decodeGroupF
  simp only [List.mem_cons, List.not_mem_nil, or_false, ← BitVec.toNat_inj]
  split <;> simp_all

/-- R77, group by group: the clause of the list for the word's `op`. -/
theorem decodeWord_eq_none_iff (w : Word) : decodeWord w = none ↔ IllegalWord w := by
  unfold IllegalWord
  simp only [← decodeGroup0_eq_none_iff, ← decodeGroup8_eq_none_iff, ← decodeGroupE_eq_none_iff, ← decodeGroupF_eq_none_iff]
  have hop := (fieldOp w).isLt
  unfold decodeWord
  simp only [← BitVec.toNat_inj]
  split
  case h_17 =>
    simp only [imp_false] at *
    exact absurd hop (by omega)
  all_goals next h => simp [h, ← BitVec.toNat_inj]

/-! ## The opcode map (R74, R76) -/

section
variable {m w : Word}

theorem eq_of_covers_fullMask (h : (Row.mk m 0xFFFF#16).covers w = true) : w = m := by
  rw [Row.covers, beq_iff_eq, show (0xFFFF#16) = BitVec.allOnes 16 from rfl, BitVec.and_allOnes] at h
  exact h

theorem fieldOp_of_covers_opMask (h : (Row.mk m 0xF000#16).covers w = true) : fieldOp w = fieldOp m := by
  rw [Laws.covers_opMask, decide_eq_true_eq] at h
  rw [← h, fieldOp_wordNNN]

theorem fields_of_covers_opNMask (h : (Row.mk m 0xF00F#16).covers w = true) :
    fieldOp w = fieldOp m ∧ fieldN w = fieldN m := by
  rw [Laws.covers_opNMask, decide_eq_true_eq] at h
  rw [← h, fieldOp_wordXYN, fieldN_wordXYN]
  exact ⟨rfl, rfl⟩

theorem fields_of_covers_opKKMask (h : (Row.mk m 0xF0FF#16).covers w = true) :
    fieldOp w = fieldOp m ∧ fieldKK w = fieldKK m := by
  rw [Laws.covers_opKKMask, decide_eq_true_eq] at h
  rw [← h, fieldOp_wordXKK, fieldKK_wordXKK]
  exact ⟨rfl, rfl⟩

end

/-- What the 34 rows fix, by their mask: the fixed fields are none of those R77 lists. -/
theorem opcodeRows_fields : ∀ r ∈ opcodeRows,
    (r.maskBits = 0xFFFF#16 ∧ r.matchBits ∈ [0x00E0#16, 0x00EE#16]) ∨
    (r.maskBits = 0xF000#16 ∧ fieldOp r.matchBits ∉ [0x0#4, 0x5#4, 0x8#4, 0x9#4, 0xE#4, 0xF#4]) ∨
    (r.maskBits = 0xF00F#16 ∧ ((fieldOp r.matchBits ∈ [0x5#4, 0x9#4] ∧ fieldN r.matchBits = 0#4) ∨
      (fieldOp r.matchBits = 0x8#4 ∧ fieldN r.matchBits ∉ [0x8#4, 0x9#4, 0xA#4, 0xB#4, 0xC#4, 0xD#4, 0xF#4]))) ∨
    (r.maskBits = 0xF0FF#16 ∧ ((fieldOp r.matchBits = 0xE#4 ∧ fieldKK r.matchBits ∈ [0x9E#8, 0xA1#8]) ∨
      (fieldOp r.matchBits = 0xF#4 ∧
        fieldKK r.matchBits ∈ [0x07#8, 0x0A#8, 0x15#8, 0x18#8, 0x1E#8, 0x29#8, 0x33#8, 0x55#8, 0x65#8]))) := by
  decide

theorem not_illegalWord_of_covers {r : Row} {w : Word} (hr : r ∈ opcodeRows) (h : r.covers w = true) : ¬ IllegalWord w := by
  have hfields := opcodeRows_fields r hr
  obtain ⟨m, k⟩ := r
  obtain ⟨rfl, hm⟩ | ⟨rfl, hm⟩ | ⟨rfl, hm⟩ | ⟨rfl, hm⟩ := hfields
  · rw [eq_of_covers_fullMask h]
    simp only [List.mem_cons, List.not_mem_nil, or_false] at hm
    obtain rfl | rfl := hm <;> unfold IllegalWord <;> decide
  · rw [← fieldOp_of_covers_opMask h] at hm
    simp_all [IllegalWord]
  · obtain ⟨hop, hn⟩ := fields_of_covers_opNMask h
    rw [← hop, ← hn] at hm
    obtain ⟨ho, h0⟩ | ⟨ho, hl⟩ := hm
    · simp only [List.mem_cons, List.not_mem_nil, or_false] at ho
      obtain ho | ho := ho <;> simp [IllegalWord, ho, h0]
    · simpa [IllegalWord, ho] using hl
  · obtain ⟨hop, hk⟩ := fields_of_covers_opKKMask h
    rw [← hop, ← hk] at hm
    obtain ⟨ho, hl⟩ | ⟨ho, hl⟩ := hm
    · simpa [IllegalWord, ho, or_iff_not_imp_left] using hl
    · simpa [IllegalWord, ho, or_iff_not_imp_left] using hl

/-- Two rows that cover one word agree on the bits both fix. -/
theorem matchBits_agree_of_covers {r r' : Row} {w : Word} (h : r.covers w = true) (h' : r'.covers w = true) :
    r.matchBits &&& r'.maskBits = r'.matchBits &&& r.maskBits := by
  rw [Row.covers, beq_iff_eq] at h h'
  rw [← h, ← h', BitVec.and_assoc, BitVec.and_assoc, BitVec.and_comm r.maskBits]

/-- Two rows differ in a bit that both fix. -/
abbrev RowsDisagree (r r' : Row) : Prop := r.matchBits &&& r'.maskBits ≠ r'.matchBits &&& r.maskBits

theorem opcodeRows_disagree : opcodeRows.Pairwise RowsDisagree := by
  decide

/-- Settles O4: any two of the 34 rows differ in a bit both fix. -/
theorem opcodePatternsArePairwiseDisjoint : Obligations.OpcodePatternsArePairwiseDisjoint := by
  unfold Obligations.OpcodePatternsArePairwiseDisjoint
  exact opcodeRows_disagree.imp fun hne _ hboth => hne (matchBits_agree_of_covers hboth.1 hboth.2)

/-- Settles O5. -/
theorem undecodedWordsAreTheIllegalOnes : Obligations.UndecodedWordsAreTheIllegalOnes := by
  unfold Obligations.UndecodedWordsAreTheIllegalOnes
  exact decodeWord_eq_none_iff

theorem tableRow (i : Instr) : Laws.TableRow.Statement i := by
  cases i with
  | cls => exact Laws.TableRow.cls
  | ret => exact Laws.TableRow.ret
  | jp nnn => exact Laws.TableRow.jp nnn
  | call nnn => exact Laws.TableRow.call nnn
  | seImm x kk => exact Laws.TableRow.seImm x kk
  | sneImm x kk => exact Laws.TableRow.sneImm x kk
  | seReg x y => exact Laws.TableRow.seReg x y
  | ldImm x kk => exact Laws.TableRow.ldImm x kk
  | addImm x kk => exact Laws.TableRow.addImm x kk
  | ldReg x y => exact Laws.TableRow.ldReg x y
  | orReg x y => exact Laws.TableRow.orReg x y
  | andReg x y => exact Laws.TableRow.andReg x y
  | xorReg x y => exact Laws.TableRow.xorReg x y
  | addReg x y => exact Laws.TableRow.addReg x y
  | sub x y => exact Laws.TableRow.sub x y
  | shr x y => exact Laws.TableRow.shr x y
  | subn x y => exact Laws.TableRow.subn x y
  | shl x y => exact Laws.TableRow.shl x y
  | sneReg x y => exact Laws.TableRow.sneReg x y
  | ldI nnn => exact Laws.TableRow.ldI nnn
  | jpV0 nnn => exact Laws.TableRow.jpV0 nnn
  | rnd x kk => exact Laws.TableRow.rnd x kk
  | drw x y n => exact Laws.TableRow.drw x y n
  | skp x => exact Laws.TableRow.skp x
  | sknp x => exact Laws.TableRow.sknp x
  | ldVxDt x => exact Laws.TableRow.ldVxDt x
  | ldVxK x => exact Laws.TableRow.ldVxK x
  | ldDtVx x => exact Laws.TableRow.ldDtVx x
  | ldStVx x => exact Laws.TableRow.ldStVx x
  | addI x => exact Laws.TableRow.addI x
  | ldF x => exact Laws.TableRow.ldF x
  | bcd x => exact Laws.TableRow.bcd x
  | storeRegs x => exact Laws.TableRow.storeRegs x
  | loadRegs x => exact Laws.TableRow.loadRegs x

theorem row_covers_of_decodeWord {w : Word} {i : Instr} (h : decodeWord w = some i) : i.row.covers w = true := by
  rw [← encode_of_decodeWord h]
  exact (tableRow i).1

/-- A covered word decodes, since no row covers an illegal word, and to the covering row, since the rows are disjoint. -/
theorem decodeWord_of_covers {r : Row} {w : Word} (hr : r ∈ opcodeRows) (h : r.covers w = true) :
    ∃ i, decodeWord w = some i ∧ i.row = r := by
  cases hd : decodeWord w with
  | none => exact absurd ((decodeWord_eq_none_iff w).1 hd) (not_illegalWord_of_covers hr h)
  | some i =>
    refine ⟨i, rfl, ?_⟩
    by_contra hne
    have : Std.Symm RowsDisagree := ⟨fun _ _ => Ne.symm⟩
    exact opcodeRows_disagree.forall (tableRow i).2 hr hne (matchBits_agree_of_covers (row_covers_of_decodeWord hd) h)

/-- Settles O3: a word's instruction lies in its row (the encoding), and a covered word decodes to the covering row. -/
theorem decoderAgreesWithTheOpcodeMap : Obligations.DecoderAgreesWithTheOpcodeMap := by
  unfold Obligations.DecoderAgreesWithTheOpcodeMap
  refine ⟨rfl, fun w r hr => ⟨decodeWord_of_covers hr, ?_⟩, fun w => ⟨fun hnone r hr => ?_, fun h => ?_⟩⟩
  · rintro ⟨i, hi, rfl⟩
    exact row_covers_of_decodeWord hi
  · refine Bool.eq_false_iff.2 fun hcov => ?_
    exact not_illegalWord_of_covers hr hcov ((decodeWord_eq_none_iff w).1 hnone)
  · refine Option.eq_none_iff_forall_ne_some.2 fun i hi => ?_
    have hcov := row_covers_of_decodeWord hi
    rw [h i.row (tableRow i).2] at hcov
    cases hcov

/-- Settles O6: eight words, decoded. -/
theorem sampleWordsDecode : Obligations.SampleWordsDecode := by
  unfold Obligations.SampleWordsDecode
  decide

end Sys2Proof.Machine
end

section
/-! SUPPORT. The control-flow instructions (`40_control_flow.md`) but for the skips with a constant: jumps, the call stack by the
three ranges of `sp`, the skips on registers and on keys. -/

namespace Sys2Proof.Machine

/-! ## Jumps (R102, R108) -/

theorem exec_jp (nnn : Addr12) (s : State) : exec (.jp nnn) s = .next (s.setPc (zext16 nnn)) := rfl

theorem exec_jpV0 (nnn : Addr12) (s : State) : exec (.jpV0 nnn) s = .next (s.setPc (zext16 nnn + s.reg16 0#4)) := rfl

theorem State.setPc_self {s : State} {a : Word} (h : a.toNat = s.pc.toNat) : s.setPc a = s := by
  rw [BitVec.eq_of_toNat_eq h]
  rfl

theorem State.toNat_reg16 (s : State) (x : Nibble) : (s.reg16 x).toNat = (s.reg x).toNat :=
  BitVec.toNat_setWidth_of_le (by decide)

/-- `nnn + V[0]` is at most `0xFFF + 0xFF = 0x10FE`, so 16 bits hold it. -/
theorem toNat_jpV0_target (s : State) (nnn : Addr12) :
    (zext16 nnn + s.reg16 0#4).toNat = nnn.toNat + (s.reg 0#4).toNat := by
  have := nnn.isLt
  have := (s.reg 0#4).isLt
  rw [BitVec.toNat_add, toNat_zext16, State.toNat_reg16]
  omega

/-- Settles O8. -/
theorem jumpGoesToItsTarget : Obligations.JumpGoesToItsTarget := by
  unfold Obligations.JumpGoesToItsTarget
  intro s nnn
  exact ⟨decodeWord_encode (.jp nnn), _, exec_jp nnn s, toNat_zext16 nnn, unchanged_setPc {} s _,
    fun h => State.setPc_self ((toNat_zext16 nnn).trans h)⟩

/-- Settles O13. -/
theorem indexedJumpAddsRegisterZero : Obligations.IndexedJumpAddsRegisterZero := by
  unfold Obligations.IndexedJumpAddsRegisterZero
  intro s nnn
  have htarget := toNat_jpV0_target s nnn
  refine ⟨decodeWord_encode (.jpV0 nnn), _, exec_jpV0 nnn s, htarget, ?_, unchanged_setPc {} s _⟩
  have := nnn.isLt
  have := (s.reg 0#4).isLt
  rw [State.setPc_pc, htarget]
  omega

/-! ## The call stack (R25, R101, R103) -/

/-- A write of `sp` and of the slots is inside every frame that names the stack. -/
theorem unchanged_setStack {w : Writes} (hw : w.stack = true) (s : State) (sp : BitVec 5) (stack : Vector Word 16) :
    Unchanged w s { s with sp := sp, stack := stack } where
  regs _ _ := rfl
  index _ := rfl
  stack h := nomatch hw.symm.trans h
  delay _ := rfl
  sound _ := rfl
  screen _ := rfl
  wait _ := ⟨rfl, rfl⟩
  kwKey := rfl
  memory _ _ := rfl
  ir := rfl
  latch := ⟨rfl, rfl⟩
  inputs := ⟨rfl, rfl⟩
  host := ⟨rfl, rfl⟩

theorem unchanged_pop_setPc (s : State) (a : Word) : Unchanged { stack := true } s (s.pop.setPc a) :=
  (unchanged_setStack rfl s _ s.stack).trans (unchanged_setPc _ _ a)

theorem unchanged_push_setPc (s : State) (ret a : Word) (h : s.sp.toNat < 16) :
    Unchanged { stack := true } s ((s.push ret h).setPc a) :=
  (unchanged_setStack rfl s _ _).trans (unchanged_setPc _ _ a)

section
variable {s : State}

theorem exec_ret_empty (h : s.sp.toNat = 0) : exec .ret s = .next (s.raiseOpcode .stackUnderflow) :=
  if_pos (BitVec.eq_of_toNat_eq h)

theorem exec_ret_held {j : Nat} (hj : j < 16) (h : s.sp.toNat = j + 1) :
    exec .ret s = .next (s.pop.setPc (s.stack[j] + 2#16)) := by
  have h0 : s.sp ≠ 0#5 := fun e => by simp [e] at h
  have hpred : s.sp.toNat - 1 = j := by omega
  show execRet s = _
  simp [execRet, h0, hpred, hj]

theorem exec_ret_above (h : 16 < s.sp.toNat) : exec .ret s = .fault .stackPointerRange := by
  have h0 : s.sp ≠ 0#5 := fun e => by simp [e] at h
  have hpred : ¬ s.sp.toNat - 1 < 16 := by omega
  show execRet s = _
  simp [execRet, h0, hpred]

theorem exec_call_full (nnn : Addr12) (h : s.sp.toNat = 16) : exec (.call nnn) s = .next (s.raiseOpcode .stackOverflow) :=
  if_pos (BitVec.eq_of_toNat_eq h)

theorem exec_call_room (nnn : Addr12) (h : s.sp.toNat < 16) :
    exec (.call nnn) s = .next ((s.push s.pc h).setPc (zext16 nnn)) := by
  have h16 : s.sp ≠ 16#5 := fun e => by simp [e] at h
  show execCall nnn s = _
  simp [execCall, h16, h]

theorem exec_call_above (nnn : Addr12) (h : 16 < s.sp.toNat) : exec (.call nnn) s = .fault .stackPointerRange := by
  have h16 : s.sp ≠ 16#5 := fun e => by simp [e] at h
  have hroom : ¬ s.sp.toNat < 16 := by omega
  show execCall nnn s = _
  simp [execCall, h16, hroom]

theorem toNat_pop_sp {j : Nat} (h : s.sp.toNat = j + 1) : s.pop.sp.toNat = j := by
  have := s.sp.isLt
  rw [State.pop_sp, BitVec.toNat_sub, h]
  simp
  omega

theorem toNat_push_sp (a : Word) (h : s.sp.toNat < 16) : (s.push a h).sp.toNat = s.sp.toNat + 1 := by
  rw [State.push_sp, BitVec.toNat_add]
  simp
  omega

theorem toNat_add_two (a : Word) : (a + 2#16).toNat = (a.toNat + 2) % 65536 :=
  BitVec.toNat_add a 2#16

end

/-- Settles O7. -/
theorem retPopsOrUnderflows : Obligations.RetPopsOrUnderflows := by
  unfold Obligations.RetPopsOrUnderflows
  intro s
  refine ⟨decodeWord_encode .ret, fun h0 => ?_, fun j hj hsp => ?_⟩
  · exact ⟨_, exec_ret_empty h0, s.raiseOpcode_raised _, rfl⟩
  · exact ⟨_, exec_ret_held hj hsp, toNat_pop_sp hsp, rfl, toNat_add_two _, unchanged_pop_setPc s _⟩

/-- Settles O9. -/
theorem callPushesOrOverflows : Obligations.CallPushesOrOverflows := by
  unfold Obligations.CallPushesOrOverflows
  intro s nnn
  refine ⟨decodeWord_encode (.call nnn), fun h16 => ?_, fun hroom => ?_⟩
  · exact ⟨_, exec_call_full nnn h16, s.raiseOpcode_raised _, rfl⟩
  · exact ⟨_, exec_call_room nnn hroom, toNat_push_sp s.pc hroom, Vector.getElem_set_self hroom,
      fun j hj hne => Vector.getElem_set_ne hroom hj hne.symm, toNat_zext16 nnn, unchanged_push_setPc s s.pc _ hroom⟩

/-- Settles O10. -/
theorem stackPointerAboveSixteenStops : Obligations.StackPointerAboveSixteenStops := by
  unfold Obligations.StackPointerAboveSixteenStops
  exact fun _ nnn h => ⟨exec_ret_above h, exec_call_above nnn h⟩

/-- Settles O59: the CALL holds its own address in the slot that the RET of the next depth pops. -/
theorem returnGoesPastItsCall : Obligations.ReturnGoesPastItsCall := by
  unfold Obligations.ReturnGoesPastItsCall
  intro s t u nnn hroom hcall husp hustack
  rw [exec_call_room nnn hroom] at hcall
  obtain rfl := Host.Outcome.next.inj hcall
  have hdepth : u.sp.toNat = s.sp.toNat + 1 := by rw [husp]; exact toNat_push_sp s.pc hroom
  have hslot : u.stack[s.sp.toNat] = s.pc := by simp [hustack]
  refine ⟨_, exec_ret_held hroom hdepth, ?_, BitVec.eq_of_toNat_eq (toNat_pop_sp hdepth)⟩
  rw [State.setPc_pc, hslot, toNat_add_two]

/-! ## Skips on registers and keys (R106, R107, R109, R110) -/

theorem exec_seReg (x y : Nibble) (s : State) : exec (.seReg x y) s = .next (s.skipIf (s.reg x == s.reg y)) := rfl

theorem exec_sneReg (x y : Nibble) (s : State) : exec (.sneReg x y) s = .next (s.skipIf (s.reg x != s.reg y)) := rfl

theorem decodeWord_group5_none (x y : Nibble) {n : Nibble} (hn : n ≠ 0#4) : decodeWord (wordXYN 0x5 x y n) = none := by
  simp [decodeWord, hn]

theorem decodeWord_group9_none (x y : Nibble) {n : Nibble} (hn : n ≠ 0#4) : decodeWord (wordXYN 0x9 x y n) = none := by
  simp [decodeWord, hn]

/-- Settles O12: the two skips are those with a constant, at the constant `V[y]`. -/
theorem registerSkipsAdvanceByTwoOrFour : Obligations.RegisterSkipsAdvanceByTwoOrFour := by
  unfold Obligations.RegisterSkipsAdvanceByTwoOrFour
  intro s x y
  exact ⟨decodeWord_encode (.seReg x y), decodeWord_encode (.sneReg x y),
    fun n hn => ⟨decodeWord_group5_none x y hn, decodeWord_group9_none x y hn⟩,
    _, _, exec_seReg x y s, exec_sneReg x y s, toNat_seImm_pc s x (s.reg y), toNat_sneImm_pc s x (s.reg y),
    unchanged_skipIf {} s _, unchanged_skipIf {} s _⟩

/-- The key a skip tests, by its number (D9). -/
theorem State.key_keyNumber (s : State) (x : Nibble) :
    s.key (s.keyNumber x) = s.keysIn.getLsbD ((s.reg x).toNat % 16) := by
  simp [State.key, State.keyNumber]

theorem exec_skp (x : Nibble) (s : State) :
    exec (.skp x) s = .next (s.skipIf (s.keysIn.getLsbD ((s.reg x).toNat % 16))) := by
  rw [← s.key_keyNumber]
  rfl

theorem exec_sknp (x : Nibble) (s : State) :
    exec (.sknp x) s = .next (s.skipIf (!s.keysIn.getLsbD ((s.reg x).toNat % 16))) := by
  rw [← s.key_keyNumber]
  rfl

/-- R110: SKNP stands the other way round. -/
theorem toNat_skipIf_not_pc (s : State) (c : Bool) :
    (s.skipIf !c).pc.toNat = (s.pc.toNat + if c = true then 2 else 4) % 65536 := by
  rw [toNat_skipIf_pc]
  cases c <;> rfl

/-- Settles O14. -/
theorem keySkipsTestTheSampledKey : Obligations.KeySkipsTestTheSampledKey := by
  unfold Obligations.KeySkipsTestTheSampledKey
  intro s x
  exact ⟨decodeWord_encode (.skp x), decodeWord_encode (.sknp x), _, _, exec_skp x s, exec_sknp x s,
    toNat_skipIf_pc s _, toNat_skipIf_not_pc s _, unchanged_skipIf {} s _, unchanged_skipIf {} s _⟩

end Sys2Proof.Machine
end

section
/-! SUPPORT. The logic, shift and random instructions (R124 to R126, R129, R131, R132), the add to the index register (R142), the
timer accesses (R160 to R162) and the entry of the key wait (R163). -/

namespace Sys2Proof.Machine

/-! ## Logic and random -/

theorem exec_orReg (x y : Nibble) (s : State) : exec (.orReg x y) s = .next (s.aluResult x (s.reg x ||| s.reg y)) := rfl

theorem exec_andReg (x y : Nibble) (s : State) : exec (.andReg x y) s = .next (s.aluResult x (s.reg x &&& s.reg y)) := rfl

theorem exec_xorReg (x y : Nibble) (s : State) : exec (.xorReg x y) s = .next (s.aluResult x (s.reg x ^^^ s.reg y)) := rfl

theorem exec_rnd (x : Nibble) (kk : Byte) (s : State) : exec (.rnd x kk) s = .next (s.aluResult x (s.rndIn &&& kk)) := rfl

/-- Settles O17: each is an ALU instruction with no flag, whose result is bitwise. -/
theorem logicWorksBitwiseAndSetsNoFlag : Obligations.LogicWorksBitwiseAndSetsNoFlag := by
  unfold Obligations.LogicWorksBitwiseAndSetsNoFlag
  intro s x y
  refine ⟨decodeWord_encode (.orReg x y), decodeWord_encode (.andReg x y), decodeWord_encode (.xorReg x y), _, _, _,
    exec_orReg x y s, exec_andReg x y s, exec_xorReg x y s, fun k _ => ?_, toNat_aluResult_pc s x _,
    toNat_aluResult_pc s x _, toNat_aluResult_pc s x _, unchanged_aluResult s x _, unchanged_aluResult s x _,
    unchanged_aluResult s x _⟩
  simp only [State.reg_aluResult_same]
  exact ⟨BitVec.getLsbD_or, BitVec.getLsbD_and, BitVec.getLsbD_xor⟩

/-- Settles O21: the sample under the mask, and the masks with no bit and with every bit. -/
theorem randomByteIsTheSampleUnderTheMask : Obligations.RandomByteIsTheSampleUnderTheMask := by
  unfold Obligations.RandomByteIsTheSampleUnderTheMask
  intro s x kk
  refine ⟨decodeWord_encode (.rnd x kk), _, exec_rnd x kk s, fun k _ => ?_, ?_, ?_, toNat_aluResult_pc s x _,
    unchanged_aluResult s x _⟩
  · rw [State.reg_aluResult_same]
    exact BitVec.getLsbD_and
  · rintro rfl
    rw [State.reg_aluResult_same]
    exact BitVec.and_zero
  · rintro rfl
    rw [State.reg_aluResult_same]
    exact BitVec.and_allOnes

/-! ## Shifts -/

theorem exec_shr (x y : Nibble) (s : State) :
    exec (.shr x y) s = .next (s.aluFlagged x (s.reg x >>> 1) (shiftedOutRight (s.reg x))) := rfl

theorem exec_shl (x y : Nibble) (s : State) :
    exec (.shl x y) s = .next (s.aluFlagged x (s.reg x <<< 1) (shiftedOutLeft (s.reg x))) := rfl

theorem State.reg_vf_aluFlagged (s : State) (x : Nibble) (r : Byte) (f : Bool) :
    (s.aluFlagged x r f).reg vf = flagByte f := by
  rw [State.reg_aluFlagged, if_pos rfl]

theorem toNat_flagByte (f : Bool) : (flagByte f).toNat = f.toNat := by
  cases f <;> rfl

/-- Bit 0 is the parity. -/
theorem toNat_shiftedOutRight (a : Byte) : (shiftedOutRight a).toNat = a.toNat % 2 := by
  rw [shiftedOutRight, BitVec.getLsbD, Nat.toNat_testBit]
  omega

/-- Bit 7 of a byte, which is below 256, is its half. -/
theorem toNat_shiftedOutLeft (a : Byte) : (shiftedOutLeft a).toNat = a.toNat / 128 := by
  have := a.isLt
  rw [shiftedOutLeft, BitVec.getLsbD, Nat.toNat_testBit]
  omega

theorem toNat_shiftRight_one (a : Byte) : (a >>> 1).toNat = a.toNat / 2 := by
  rw [BitVec.toNat_ushiftRight, Nat.shiftRight_one]

theorem toNat_shiftLeft_one (a : Byte) : (a <<< 1).toNat = 2 * a.toNat % 256 := by
  rw [BitVec.toNat_shiftLeft, Nat.shiftLeft_eq, Nat.mul_comm]

/-- Settles O20: neither meaning names `y`, and the flag is the bit shifted out, as a number. -/
theorem shiftsMoveOneBitIntoTheFlag : Obligations.ShiftsMoveOneBitIntoTheFlag := by
  unfold Obligations.ShiftsMoveOneBitIntoTheFlag
  intro s x y
  refine ⟨decodeWord_encode (.shr x y), decodeWord_encode (.shl x y), _, _,
    fun y' => ⟨exec_shr x y' s, exec_shl x y' s⟩, fun hx => ⟨?_, ?_⟩, ?_, ?_, toNat_aluFlagged_pc s x _ _,
    toNat_aluFlagged_pc s x _ _, unchanged_aluFlagged s x _ _, unchanged_aluFlagged s x _ _⟩
  · rw [s.reg_aluFlagged_same _ _ hx, toNat_shiftRight_one]
  · rw [s.reg_aluFlagged_same _ _ hx, toNat_shiftLeft_one]
  · rw [State.reg_vf_aluFlagged, toNat_flagByte, toNat_shiftedOutRight]
  · rw [State.reg_vf_aluFlagged, toNat_flagByte, toNat_shiftedOutLeft]

/-! ## The add to the index register -/

theorem exec_addI (x : Nibble) (s : State) : exec (.addI x) s = .next (s.setI (s.i + s.reg16 x)).advance := rfl

theorem toNat_addI_target (s : State) (x : Nibble) :
    (s.i + s.reg16 x).toNat = (s.i.toNat + (s.reg x).toNat) % 65536 := by
  rw [BitVec.toNat_add, State.toNat_reg16]

/-- Settles O23. -/
theorem indexAddWrapsAtSixteenBits : Obligations.IndexAddWrapsAtSixteenBits := by
  unfold Obligations.IndexAddWrapsAtSixteenBits
  intro s x
  exact ⟨decodeWord_encode (.addI x), _, exec_addI x s, toNat_addI_target s x, toNat_advance_pc _,
    unchanged_setI_advance s _⟩

/-! ## Timer accesses -/

/-- A write of the delay timer is inside every frame that names it. -/
theorem unchanged_setDt {w : Writes} (hw : w.delay = true) (s : State) (b : Byte) : Unchanged w s (s.setDt b) where
  regs _ _ := rfl
  index _ := rfl
  stack _ := ⟨rfl, rfl⟩
  delay h := nomatch hw.symm.trans h
  sound _ := rfl
  screen _ := rfl
  wait _ := ⟨rfl, rfl⟩
  kwKey := rfl
  memory _ _ := rfl
  ir := rfl
  latch := ⟨rfl, rfl⟩
  inputs := ⟨rfl, rfl⟩
  host := ⟨rfl, rfl⟩

/-- A write of the sound timer is inside every frame that names it. -/
theorem unchanged_setSt {w : Writes} (hw : w.sound = true) (s : State) (b : Byte) : Unchanged w s (s.setSt b) where
  regs _ _ := rfl
  index _ := rfl
  stack _ := ⟨rfl, rfl⟩
  delay _ := rfl
  sound h := nomatch hw.symm.trans h
  screen _ := rfl
  wait _ := ⟨rfl, rfl⟩
  kwKey := rfl
  memory _ _ := rfl
  ir := rfl
  latch := ⟨rfl, rfl⟩
  inputs := ⟨rfl, rfl⟩
  host := ⟨rfl, rfl⟩

theorem unchanged_setDt_advance (s : State) (b : Byte) : Unchanged { delay := true } s (s.setDt b).advance :=
  (unchanged_setDt rfl s b).trans (unchanged_advance _ _)

theorem unchanged_setSt_advance (s : State) (b : Byte) : Unchanged { sound := true } s (s.setSt b).advance :=
  (unchanged_setSt rfl s b).trans (unchanged_advance _ _)

/-- LD Vx, DT has the shape of an ALU instruction with no flag. -/
theorem exec_ldVxDt (x : Nibble) (s : State) : exec (.ldVxDt x) s = .next (s.aluResult x s.dt) := rfl

theorem exec_ldDtVx (x : Nibble) (s : State) : exec (.ldDtVx x) s = .next (s.setDt (s.reg x)).advance := rfl

theorem exec_ldStVx (x : Nibble) (s : State) : exec (.ldStVx x) s = .next (s.setSt (s.reg x)).advance := rfl

/-- Settles O35. -/
theorem timerAccessesMoveOneByte : Obligations.TimerAccessesMoveOneByte := by
  unfold Obligations.TimerAccessesMoveOneByte
  intro s x
  exact ⟨decodeWord_encode (.ldVxDt x), decodeWord_encode (.ldDtVx x), decodeWord_encode (.ldStVx x), _, _, _,
    exec_ldVxDt x s, exec_ldDtVx x s, exec_ldStVx x s, s.reg_aluResult_same x _, rfl, rfl, toNat_aluResult_pc s x _,
    toNat_advance_pc _, toNat_advance_pc _, unchanged_aluResult s x _, unchanged_setDt_advance s _,
    unchanged_setSt_advance s _⟩

/-! ## The entry of the key wait -/

/-- A write of the wait's tag and register is inside every frame that names the wait. -/
theorem unchanged_enterWait {w : Writes} (hw : w.wait = true) (s : State) (x : Nibble) : Unchanged w s (s.enterWait x) where
  regs _ _ := rfl
  index _ := rfl
  stack _ := ⟨rfl, rfl⟩
  delay _ := rfl
  sound _ := rfl
  screen _ := rfl
  wait h := nomatch hw.symm.trans h
  kwKey := rfl
  memory _ _ := rfl
  ir := rfl
  latch := ⟨rfl, rfl⟩
  inputs := ⟨rfl, rfl⟩
  host := ⟨rfl, rfl⟩

theorem exec_ldVxK (x : Nibble) (s : State) : exec (.ldVxK x) s = .next (s.enterWait x) := rfl

/-- Settles O36. -/
theorem keyWaitEntryLeavesPcAndRegisters : Obligations.KeyWaitEntryLeavesPcAndRegisters := by
  unfold Obligations.KeyWaitEntryLeavesPcAndRegisters
  intro s x
  exact ⟨decodeWord_encode (.ldVxK x), _, exec_ldVxK x s, rfl, rfl, rfl, unchanged_enterWait rfl s x,
    fun keys => exec_ldVxK x { s with keysIn := keys }⟩

end Sys2Proof.Machine
end

section
/-! SUPPORT. The instructions that move data through `I` (R144 to R146), the range check of every data access (R56), and the
canonical form of memory. -/

namespace Sys2Proof.Machine

/-! ## The range check -/

/-- R56 at `exec`: whatever the access, one byte above 4095 and the instruction raises. -/
theorem exec_eq_raiseAddress {i : Instr} {s : State} (h1 : 1 ≤ dataCount i) (h : 4096 < s.i.toNat + dataCount i) :
    exec i s = .next s.raiseAddress := by
  cases i with
  | drw | bcd | storeRegs | loadRegs => exact s.withAccess_outside _ h1 h
  | _ => exact absurd h1 (Nat.not_succ_le_zero 0)

/-- Settles O27. -/
theorem accessBeyondMemoryRaises : Obligations.AccessBeyondMemoryRaises := by
  unfold Obligations.AccessBeyondMemoryRaises
  intro i s h1 h
  exact ⟨_, exec_eq_raiseAddress h1 (by omega), s.raiseAddress_raised, rfl, s.offendingAddress_toNat⟩

section
variable {s : State}

theorem exec_bcd_inside (x : Nibble) (h : s.i.toNat + 3 ≤ 4096) :
    exec (.bcd x) s = .next (s.storeBytes (s.ea 0) (bcdDigits (s.reg x))).advance :=
  s.withAccess_inside _ (.inr h)

theorem exec_storeRegs_inside {x : Nibble} (h : s.i.toNat + (x.toNat + 1) ≤ 4096) :
    exec (.storeRegs x) s = .next (s.storeBytes (s.ea 0) (s.firstRegs x)).advance :=
  s.withAccess_inside _ (.inr h)

theorem exec_loadRegs_inside {x : Nibble} (h : s.i.toNat + (x.toNat + 1) ≤ 4096) :
    exec (.loadRegs x) s = .next (s.loadFromI (x.toNat + 1)).advance :=
  s.withAccess_inside _ (.inr h)

/-! ## A store from `I` up -/

/-- A store from `I` up is inside the frame that names its addresses. -/
theorem unchanged_storeBytes (s : State) (bs : List Byte) :
    Unchanged { stored := (List.range bs.length).map s.ea } s (s.storeBytes (s.ea 0) bs) where
  regs _ _ := rfl
  index _ := rfl
  stack _ := ⟨rfl, rfl⟩
  delay _ := rfl
  sound _ := rfl
  screen _ := rfl
  wait _ := ⟨rfl, rfl⟩
  kwKey := rfl
  memory a ha := by
    refine Memory.read_writeBytes_outside ?_
    by_contra hin
    refine ha (List.mem_map.2 ⟨a - s.i.toNat, List.mem_range.2 ?_, ?_⟩)
    · simp only [State.ea] at hin
      omega
    · simp only [State.ea] at hin ⊢
      omega
  ir := rfl
  latch := ⟨rfl, rfl⟩
  inputs := ⟨rfl, rfl⟩
  host := ⟨rfl, rfl⟩

theorem unchanged_storeBytes_advance (s : State) (bs : List Byte) :
    Unchanged { stored := (List.range bs.length).map s.ea } s (s.storeBytes (s.ea 0) bs).advance :=
  (unchanged_storeBytes s bs).trans (unchanged_advance _ _)

theorem read_storeBytes_ea {bs : List Byte} {k : Nat} (hwf : s.mem.wf = true) (hin : s.i.toNat + bs.length ≤ 4096)
    (hk : k < bs.length) : (s.storeBytes (s.ea 0) bs).mem.read (s.ea k) = bs[k] :=
  Memory.read_writeBytes_inside hwf hin hk

theorem unchanged_bcd (s : State) (x : Nibble) :
    Unchanged { stored := [s.ea 0, s.ea 1, s.ea 2] } s (s.storeBytes (s.ea 0) (bcdDigits (s.reg x))).advance :=
  unchanged_storeBytes_advance s (bcdDigits (s.reg x))

theorem read_bcd {x : Nibble} (hwf : s.mem.wf = true) (hrange : s.i.toNat + 3 ≤ 4096) :
    (s.storeBytes (s.ea 0) (bcdDigits (s.reg x))).mem.read (s.ea 0) = BitVec.ofNat 8 ((s.reg x).toNat / 100) ∧
    (s.storeBytes (s.ea 0) (bcdDigits (s.reg x))).mem.read (s.ea 1) = BitVec.ofNat 8 ((s.reg x).toNat / 10 % 10) ∧
    (s.storeBytes (s.ea 0) (bcdDigits (s.reg x))).mem.read (s.ea 2) = BitVec.ofNat 8 ((s.reg x).toNat % 10) := by
  have hread := fun (k : Nat) (hk : k < 3) => read_storeBytes_ea (bs := bcdDigits (s.reg x)) hwf hrange hk
  exact ⟨hread 0 (by decide), hread 1 (by decide), hread 2 (by decide)⟩

/-- Settles O24: the byte at `I + k` is the `k`th digit. -/
theorem bcdStoresThreeDigits : Obligations.BcdStoresThreeDigits := by
  unfold Obligations.BcdStoresThreeDigits
  intro s x
  refine ⟨decodeWord_encode (.bcd x), fun hwf hrange => ?_⟩
  have hin : s.i.toNat + 3 ≤ 4096 := by omega
  have hbyte := (s.reg x).isLt
  obtain ⟨hhundreds, htens, hones⟩ := read_bcd (x := x) hwf hin
  refine ⟨_, exec_bcd_inside x hin, ?_, ?_, ?_, toNat_advance_pc _, unchanged_bcd s x⟩
  · rw [State.advance_mem, hhundreds, BitVec.toNat_ofNat]
    omega
  · rw [State.advance_mem, htens, BitVec.toNat_ofNat]
    omega
  · rw [State.advance_mem, hones, BitVec.toNat_ofNat]
    omega

theorem unchanged_storeRegs (s : State) (x : Nibble) :
    Unchanged { stored := (List.range (x.toNat + 1)).map s.ea } s (s.storeBytes (s.ea 0) (s.firstRegs x)).advance := by
  have h := unchanged_storeBytes_advance s (s.firstRegs x)
  rwa [State.firstRegs_length] at h

/-- The byte stored at `I + y` is `V[y]` (R145). -/
theorem read_storeRegs {x y : Nibble} (hwf : s.mem.wf = true) (hrange : s.i.toNat + x.toNat ≤ 4095) (hy : y.toNat ≤ x.toNat) :
    (s.storeBytes (s.ea 0) (s.firstRegs x)).mem.read (s.ea y.toNat) = s.reg y := by
  have hlen := s.firstRegs_length x
  rw [read_storeBytes_ea hwf (by omega) (by omega), State.firstRegs_getElem]

end

/-- Settles O25. -/
theorem storeWritesTheFirstRegisters : Obligations.StoreWritesTheFirstRegisters := by
  unfold Obligations.StoreWritesTheFirstRegisters
  intro s x
  exact ⟨decodeWord_encode (.storeRegs x), fun hwf hrange => ⟨_, exec_storeRegs_inside (by omega),
    fun _ hy => read_storeRegs hwf hrange hy, toNat_advance_pc _, unchanged_storeRegs s x⟩⟩

/-! ## A load from `I` up -/

theorem mem_registersBelow {y : Nibble} {n : Nat} (h : y.toNat < n) : y ∈ registersBelow n :=
  List.mem_map.2 ⟨y.toNat, List.mem_range.2 h, by simp⟩

theorem State.reg_loadFromI_above (s : State) {y : Nibble} {n : Nat} (h : ¬ y.toNat < n) :
    (s.loadFromI n).reg y = s.reg y := by
  rw [State.reg_loadFromI, if_neg h]

theorem State.reg_loadFromI_below (s : State) {y : Nibble} {n : Nat} (h : y.toNat < n) :
    (s.loadFromI n).reg y = s.mem.read (s.ea y.toNat) := by
  rw [State.reg_loadFromI, if_pos h]
  rfl

/-- A load from `I` up is inside the frame that names its registers. -/
theorem unchanged_loadFromI (s : State) (n : Nat) : Unchanged { regs := registersBelow n } s (s.loadFromI n) where
  regs _ hy := s.reg_loadFromI_above (mt mem_registersBelow hy)
  index _ := rfl
  stack _ := ⟨rfl, rfl⟩
  delay _ := rfl
  sound _ := rfl
  screen _ := rfl
  wait _ := ⟨rfl, rfl⟩
  kwKey := rfl
  memory _ _ := rfl
  ir := rfl
  latch := ⟨rfl, rfl⟩
  inputs := ⟨rfl, rfl⟩
  host := ⟨rfl, rfl⟩

theorem unchanged_loadFromI_advance (s : State) (n : Nat) :
    Unchanged { regs := registersBelow n } s (s.loadFromI n).advance :=
  (unchanged_loadFromI s n).trans (unchanged_advance _ _)

/-- Settles O26. -/
theorem loadReadsTheFirstRegisters : Obligations.LoadReadsTheFirstRegisters := by
  unfold Obligations.LoadReadsTheFirstRegisters
  intro s x
  exact ⟨decodeWord_encode (.loadRegs x), fun hrange => ⟨_, exec_loadRegs_inside (by omega),
    fun _ hy => s.reg_loadFromI_below (Nat.lt_succ_of_le hy), fun _ hy => s.reg_loadFromI_above (by omega),
    toNat_advance_pc _, unchanged_loadFromI_advance s _⟩⟩

/-! ## A store, then a fetch or a load -/

/-- Settles O28: the next fetch reads the first two stored bytes, the lower-numbered register first. -/
theorem storeIsSeenByTheNextFetch : Obligations.StoreIsSeenByTheNextFetch := by
  unfold Obligations.StoreIsSeenByTheNextFetch
  intro s t x hwf hx hrange hpc hexec
  rw [exec_storeRegs_inside (by omega)] at hexec
  obtain rfl := Host.Outcome.next.inj hexec
  have hhigh := read_storeRegs (y := 0#4) hwf hrange (Nat.zero_le _)
  have hlow := read_storeRegs (y := 1#4) hwf hrange hx
  have hnext : (s.storeBytes (s.ea 0) (s.firstRegs x)).advance.pc.toNat = s.i.toNat := by
    rw [toNat_advance_pc, State.storeBytes_pc]
    omega
  rw [State.fetchWord, Memory.readWord, hnext]
  exact congrArg₂ (· ++ ·) hhigh hlow

/-- Settles O29. -/
theorem loadRestoresWhatStoreSaved : Obligations.LoadRestoresWhatStoreSaved := by
  unfold Obligations.LoadRestoresWhatStoreSaved
  intro s t u x hwf hrange hexec hi hmem
  rw [exec_storeRegs_inside (by omega)] at hexec
  obtain rfl := Host.Outcome.next.inj hexec
  replace hi : u.i = s.i := hi
  refine ⟨_, exec_loadRegs_inside (by rw [hi]; omega), fun y hy => ?_⟩
  have hea : u.ea y.toNat = s.ea y.toNat := by rw [State.ea, State.ea, hi]
  rw [State.advance_reg, u.reg_loadFromI_below (Nat.lt_succ_of_le hy), hmem, hea]
  exact read_storeRegs hwf hrange hy

/-! ## The canonical form -/

/-- A canonical list reads at its first address as no unlisted address does. -/
theorem Memory.read_head_ne_unlisted {m : Memory} {lo k : Nat} {b : Byte} (h : Memory.wfFrom lo ((k, b) :: m) = true) :
    Memory.read ((k, b) :: m) k ≠ Memory.unlisted k := by
  simp only [Memory.wfFrom, Bool.and_eq_true, decide_eq_true_eq] at h
  simpa [Memory.read] using h.1.2

/-- The tail of a canonical list reads as the list does, but at the head's address, where it reads as an unlisted one. -/
theorem Memory.read_tail {m : Memory} {lo k : Nat} {b : Byte} (h : Memory.wfFrom lo ((k, b) :: m) = true) (a : Nat) :
    m.read a = if a = k then Memory.unlisted a else Memory.read ((k, b) :: m) a := by
  simp only [Memory.wfFrom, Bool.and_eq_true, decide_eq_true_eq] at h
  split
  · next ha => exact Memory.read_below h.2 (by omega)
  · next ha => simp [Memory.read, Ne.symm ha]

theorem Memory.wfFrom_cons {m : Memory} {lo k : Nat} {b : Byte} (h : Memory.wfFrom lo ((k, b) :: m) = true) :
    k < 4096 ∧ Memory.wfFrom k ((k, b) :: m) = true ∧ Memory.wfFrom (k + 1) m = true := by
  simp only [Memory.wfFrom, Bool.and_eq_true, decide_eq_true_eq, le_refl, true_and] at h ⊢
  exact ⟨h.1.1.2, ⟨⟨h.1.1.2, h.1.2⟩, h.2⟩, h.2⟩

/-- Two canonical lists that read alike start at the same address: the lower first address would be unlisted in the other. -/
theorem Memory.head_le_of_read_eq {m m' : Memory} {lo lo' k k' : Nat} {b b' : Byte}
    (h : Memory.wfFrom lo ((k, b) :: m) = true) (h' : Memory.wfFrom lo' ((k', b') :: m') = true)
    (hread : ∀ a, a < 4096 → Memory.read ((k, b) :: m) a = Memory.read ((k', b') :: m') a) : k' ≤ k := by
  by_contra hlt
  refine Memory.read_head_ne_unlisted h ?_
  rw [hread k (Memory.wfFrom_cons h).1]
  exact Memory.read_below (Memory.wfFrom_cons h').2.1 (by omega)

/-- A canonical list that reads as the empty one is empty. -/
theorem Memory.eq_nil_of_read {m : Memory} {lo : Nat} (h : Memory.wfFrom lo m = true)
    (hread : ∀ a, a < 4096 → m.read a = Memory.unlisted a) : m = [] := by
  cases m with
  | nil => rfl
  | cons e m => exact absurd (hread e.1 (Memory.wfFrom_cons h).1) (Memory.read_head_ne_unlisted h)

theorem Memory.ext_of_wfFrom {m m' : Memory} {lo lo' : Nat} (h : Memory.wfFrom lo m = true) (h' : Memory.wfFrom lo' m' = true)
    (hread : ∀ a, a < 4096 → m.read a = m'.read a) : m = m' := by
  induction m generalizing m' lo lo' with
  | nil => exact (Memory.eq_nil_of_read h' fun a ha => (hread a ha).symm).symm
  | cons e m ih =>
    cases m' with
    | nil => exact Memory.eq_nil_of_read h hread
    | cons e' m' =>
      obtain ⟨k, b⟩ := e
      obtain ⟨k', b'⟩ := e'
      obtain rfl : k = k' := Nat.le_antisymm (Memory.head_le_of_read_eq h' h fun a ha => (hread a ha).symm)
        (Memory.head_le_of_read_eq h h' hread)
      obtain rfl : b = b' := by simpa [Memory.read] using hread k (Memory.wfFrom_cons h).1
      have htail : ∀ a, a < 4096 → Memory.read m a = Memory.read m' a := fun a ha => by
        rw [Memory.read_tail h, Memory.read_tail h', hread a ha]
      rw [ih (Memory.wfFrom_cons h).2.2 (Memory.wfFrom_cons h').2.2 htail]

/-- Settles O30. -/
theorem canonicalMemoriesThatReadAlikeAreEqual : Obligations.CanonicalMemoriesThatReadAlikeAreEqual := by
  unfold Obligations.CanonicalMemoriesThatReadAlikeAreEqual
  exact fun _ _ => Memory.ext_of_wfFrom

end Sys2Proof.Machine
end

section
/-! SUPPORT. The draw of a sprite (R152 to R154): which pixels it inverts, pixel by pixel, column by column and row by row.
The key fact: the pixels of a sprite are all different, so each is inverted once. -/

namespace Sys2Proof.Machine

/-! ## What a draw does -/

/-- `q` is `p` after the pixels of `H` are inverted, each once: the others stay, and a collision is recorded exactly when one
of `H` was set. -/
structure Draws (H : Nat → Nat → Prop) (p q : Framebuffer × Bool) : Prop where
  hit : ∀ {X Y} (hX : X < 64) (hY : Y < 32), H X Y → pixel q.1 X Y hX hY = !pixel p.1 X Y hX hY
  miss : ∀ {X Y} (hX : X < 64) (hY : Y < 32), ¬ H X Y → pixel q.1 X Y hX hY = pixel p.1 X Y hX hY
  collision : q.2 = true ↔ p.2 = true ∨ ∃ X Y, ∃ (hX : X < 64) (hY : Y < 32), pixel p.1 X Y hX hY = true ∧ H X Y

section
variable {H H' : Nat → Nat → Prop} {p q r : Framebuffer × Bool}

theorem Draws.congr (h : Draws H p q) (hiff : ∀ X Y, H X Y ↔ H' X Y) : Draws H' p q := by
  obtain rfl : H = H' := funext₂ fun X Y => propext (hiff X Y)
  exact h

theorem Draws.none (hnone : ∀ X Y, ¬ H X Y) : Draws H p p where
  hit _ _ h := absurd h (hnone _ _)
  miss _ _ _ := rfl
  collision := by simp [hnone]

/-- Two draws with no pixel in common are one. -/
theorem Draws.union (h : Draws H p q) (h' : Draws H' q r) (hdisj : ∀ X Y, H X Y → ¬ H' X Y) :
    Draws (fun X Y => H X Y ∨ H' X Y) p r where
  hit hX hY := by
    rintro (hH | hH')
    · rw [h'.miss hX hY (hdisj _ _ hH), h.hit hX hY hH]
    · rw [h'.hit hX hY hH', h.miss hX hY fun hH => hdisj _ _ hH hH']
  miss hX hY hn := by
    rw [h'.miss hX hY fun hH' => hn (.inr hH'), h.miss hX hY fun hH => hn (.inl hH)]
  collision := by
    rw [h'.collision, h.collision]
    constructor
    · rintro ((hp | ⟨X, Y, hX, hY, hpix, hH⟩) | ⟨X, Y, hX, hY, hpix, hH'⟩)
      · exact .inl hp
      · exact .inr ⟨X, Y, hX, hY, hpix, .inl hH⟩
      · rw [h.miss hX hY fun hH => hdisj _ _ hH hH'] at hpix
        exact .inr ⟨X, Y, hX, hY, hpix, .inr hH'⟩
    · rintro (hp | ⟨X, Y, hX, hY, hpix, hH | hH'⟩)
      · exact .inl (.inl hp)
      · exact .inl (.inr ⟨X, Y, hX, hY, hpix, hH⟩)
      · rw [← h.miss hX hY fun hH => hdisj _ _ hH hH'] at hpix
        exact .inr ⟨X, Y, hX, hY, hpix, hH'⟩

/-- The same draw a second time restores the screen (R154). -/
theorem Draws.restores (h : Draws H p q) (h' : Draws H (q.1, false) r) : r.1 = p.1 := by
  refine framebuffer_ext fun X Y hX hY => ?_
  by_cases hH : H X Y
  · rw [h'.hit hX hY hH, h.hit hX hY hH, Bool.not_not]
  · rw [h'.miss hX hY hH, h.miss hX hY hH]

/-- The second draw collides exactly where the first turned a pixel on (C8). -/
theorem Draws.collision_again (h : Draws H p q) (h' : Draws H (q.1, false) r) :
    r.2 = true ↔ ∃ X Y, ∃ (hX : X < 64) (hY : Y < 32), pixel p.1 X Y hX hY = false ∧ pixel q.1 X Y hX hY = true := by
  rw [h'.collision]
  constructor
  · rintro (hp | ⟨X, Y, hX, hY, hpix, hH⟩)
    · cases hp
    · exact ⟨X, Y, hX, hY, by simpa [h.hit hX hY hH] using hpix, hpix⟩
  · rintro ⟨X, Y, hX, hY, hoff, hon⟩
    refine .inr ⟨X, Y, hX, hY, hon, ?_⟩
    by_contra hH
    rw [h.miss hX hY hH, hoff] at hon
    cases hon

end

/-! ## One pixel, one row, all rows -/

theorem draws_drawPixel (p : Framebuffer × Bool) {X Y : Nat} (hX : X < 64) (hY : Y < 32) (bit : Bool) :
    Draws (fun X' Y' => X' = X ∧ Y' = Y ∧ bit = true) p (drawPixel p X Y hX hY bit) where
  hit {X' Y'} hX' hY' := by
    rintro ⟨rfl, rfl, hbit⟩
    simp [pixel_drawPixel, hbit]
  miss {X' Y'} hX' hY' hn := by
    rw [pixel_drawPixel]
    split
    · next h =>
        obtain ⟨rfl, rfl⟩ := h
        have hbit : bit = false := by simpa using hn
        rw [hbit, Bool.xor_false]
    · rfl
  collision := by
    rw [drawPixel_collision, Bool.or_eq_true, Bool.and_eq_true]
    refine or_congr_right ⟨fun ⟨hpix, hbit⟩ => ⟨X, Y, hX, hY, hpix, rfl, rfl, hbit⟩, ?_⟩
    rintro ⟨_, _, _, _, hpix, rfl, rfl, hbit⟩
    exact ⟨hpix, hbit⟩

/-- The 1-bits of the first `m` columns of a sprite row `b` whose start is `(vx, vy)`. -/
def RowBit (vx vy : Nat) (b : Byte) (m X Y : Nat) : Prop :=
  ∃ c, c < m ∧ X = (vx + c) % 64 ∧ Y = vy % 32 ∧ b.getLsbD (7 - c) = true

theorem rowBit_succ (vx vy : Nat) (b : Byte) (m X Y : Nat) : RowBit vx vy b (m + 1) X Y ↔
    RowBit vx vy b m X Y ∨ (X = (vx + m) % 64 ∧ Y = vy % 32 ∧ b.getLsbD (7 - m) = true) := by
  constructor
  · rintro ⟨c, hc, h⟩
    obtain hlt | rfl := Nat.lt_succ_iff_lt_or_eq.1 hc
    · exact .inl ⟨c, hlt, h⟩
    · exact .inr h
  · rintro (⟨c, hc, h⟩ | h)
    · exact ⟨c, Nat.lt_succ_of_lt hc, h⟩
    · exact ⟨m, Nat.lt_succ_self m, h⟩

/-- The first `m` columns, which are all different since `m` is at most 64. -/
theorem draws_drawColumns (vx vy r : Nat) (b : Byte) (p : Framebuffer × Bool) {m : Nat} (hm : m ≤ 64) :
    Draws (RowBit vx (vy + r) b m) p ((List.range m).foldl (drawColumn vx vy r b) p) := by
  induction m with
  | zero => exact Draws.none fun X Y ⟨c, hc, _⟩ => absurd hc (Nat.not_lt_zero c)
  | succ m ih =>
    rw [List.range_succ, List.foldl_append]
    refine ((ih (by omega)).union (draws_drawPixel _ _ _ (b.getLsbD (7 - m))) ?_).congr fun X Y =>
      (rowBit_succ vx (vy + r) b m X Y).symm
    rintro X Y ⟨c, hc, hX, -⟩ ⟨hX', -⟩
    omega

theorem draws_drawRow (vx vy r : Nat) (b : Byte) (p : Framebuffer × Bool) :
    Draws (RowBit vx (vy + r) b 8) p (drawRow vx vy r b p) :=
  draws_drawColumns vx vy r b p (by decide)

theorem spriteBit_cons (vx vy : Nat) (b : Byte) (bs : List Byte) (X Y : Nat) :
    SpriteBit vx vy (b :: bs) X Y ↔ RowBit vx vy b 8 X Y ∨ SpriteBit vx (vy + 1) bs X Y := by
  constructor
  · rintro ⟨k, hk, c, hc, hX, hY, hbit⟩
    cases k with
    | zero => exact .inl ⟨c, hc, hX, hY, hbit⟩
    | succ k => exact .inr ⟨k, Nat.lt_of_succ_lt_succ hk, c, hc, hX, by rw [hY]; congr 1; omega, hbit⟩
  · rintro (⟨c, hc, hX, hY, hbit⟩ | ⟨k, hk, c, hc, hX, hY, hbit⟩)
    · exact ⟨0, Nat.succ_pos _, c, hc, hX, hY, hbit⟩
    · exact ⟨k + 1, Nat.succ_lt_succ hk, c, hc, hX, by rw [hY]; congr 1; omega, hbit⟩

/-- The rows from row `r` down, which are all different since there are at most 32. -/
theorem draws_drawRows (vx vy r : Nat) (bs : List Byte) (p : Framebuffer × Bool) (hlen : bs.length ≤ 32) :
    Draws (SpriteBit vx (vy + r) bs) p (drawRows vx vy r bs p) := by
  induction bs generalizing r p with
  | nil => exact Draws.none fun X Y ⟨k, hk, _⟩ => absurd hk (Nat.not_lt_zero k)
  | cons b bs ih =>
    rw [List.length_cons] at hlen
    refine ((draws_drawRow vx vy r b p).union (ih (r + 1) _ (by omega)) ?_).congr fun X Y =>
      (spriteBit_cons vx (vy + r) b bs X Y).symm
    rintro X Y ⟨-, -, -, hY, -⟩ ⟨k, hk, -, -, -, hY', -⟩
    omega

theorem draws_drawSprite (vx vy : Nat) (rows : List Byte) (fb : Framebuffer) (hlen : rows.length ≤ 32) :
    Draws (SpriteBit vx vy rows) (fb, false) (drawSprite vx vy rows fb) :=
  draws_drawRows vx vy 0 rows (fb, false) hlen

/-! ## The instruction -/

/-- What DRW ends in when it does not raise. -/
def State.drwDone (s : State) (x y n : Nibble) : State := ((s.setFb (s.drawn x y n).1).setFlag (s.drawn x y n).2).advance

theorem exec_drw_inside {s : State} {n : Nibble} (x y : Nibble) (h : n.toNat = 0 ∨ s.i.toNat + n.toNat ≤ 4096) :
    exec (.drw x y n) s = .next (s.drwDone x y n) :=
  s.withAccess_inside _ h

theorem unchanged_drwDone (s : State) (x y n : Nibble) : Unchanged { regs := [vf], screen := true } s (s.drwDone x y n) :=
  ((unchanged_setFb rfl s _).trans (unchanged_setReg (by simp) _ _)).trans (unchanged_advance _ _)

theorem State.reg_vf_drwDone (s : State) (x y n : Nibble) : (s.drwDone x y n).reg vf = flagByte (s.drawn x y n).2 :=
  (State.reg_setFlag _ _ vf).trans (if_pos rfl)

theorem flagByte_eq_zero_or_one (f : Bool) : flagByte f = 0 ∨ flagByte f = 1 := by
  cases f <;> decide

theorem flagByte_eq_one_iff (f : Bool) : flagByte f = 1 ↔ f = true := by
  cases f <;> decide

theorem Memory.readBytes_eq_map (m : Memory) (a n : Nat) : m.readBytes a n = (List.range n).map fun k => m.read (a + k) := by
  refine List.ext_getElem (by simp) fun k hk _ => ?_
  simp [Memory.readBytes_getElem]

theorem draws_drawn (s : State) (x y n : Nibble) :
    Draws (SpriteBit (s.reg x).toNat (s.reg y).toNat (s.spriteRows n)) (s.fb, false) (s.drawn x y n) := by
  refine draws_drawSprite _ _ _ _ ?_
  have := n.isLt
  rw [State.spriteRows, Memory.readBytes_length]
  omega

/-- Settles O32: the sprite has at most 15 rows, so a draw of it inverts each of its pixels once. -/
theorem drawInvertsTheSpritePixels : Obligations.DrawInvertsTheSpritePixels := by
  unfold Obligations.DrawInvertsTheSpritePixels
  intro s x y n
  refine ⟨decodeWord_encode (.drw x y n), fun hrange => ⟨_, exec_drw_inside x y (by omega), s.spriteRows n,
    s.mem.readBytes_eq_map _ _, fun X Y hX hY => ?_, ?_, ?_, toNat_advance_pc _, unchanged_drwDone s x y n⟩⟩
  · exact ⟨(draws_drawn s x y n).hit hX hY, (draws_drawn s x y n).miss hX hY⟩
  · rw [State.reg_vf_drwDone]
    exact flagByte_eq_zero_or_one _
  · rw [State.reg_vf_drwDone, flagByte_eq_one_iff, (draws_drawn s x y n).collision]
    simp

/-- A draw that does not raise had its sprite in range. -/
theorem exec_drw_of_fault_eq {s t : State} {x y n : Nibble} (h : exec (.drw x y n) s = .next t) (hs : s.fault = .none)
    (ht : t.fault = s.fault) : (n.toNat = 0 ∨ s.i.toNat + n.toNat ≤ 4096) ∧ t = s.drwDone x y n := by
  obtain ⟨_, hraise⟩ | ⟨hin, hdone⟩ := s.withAccess_cases n.toNat (s.drwDone x y n)
  · obtain rfl := Host.Outcome.next.inj (hraise.symm.trans h)
    rw [hs] at ht
    cases ht
  · exact ⟨hin, (Host.Outcome.next.inj (hdone.symm.trans h)).symm⟩

/-- Settles O33: the two draws invert the same pixels, so the second undoes the first. -/
theorem secondDrawRestoresTheScreen : Obligations.SecondDrawRestoresTheScreen := by
  unfold Obligations.SecondDrawRestoresTheScreen
  intro s t u x y n hexec ht hs hfb hmem hi hx hy
  obtain ⟨hin, rfl⟩ := exec_drw_of_fault_eq hexec hs ht
  have hfirst := draws_drawn s x y n
  have hsecond := draws_drawn u x y n
  have hrows : u.spriteRows n = s.spriteRows n := by rw [State.spriteRows, State.spriteRows, hmem, hi]
  rw [hrows, hx, hy, hfb] at hsecond
  refine ⟨_, exec_drw_inside x y (by rwa [hi]), hfirst.restores hsecond, ?_⟩
  rw [State.reg_vf_drwDone, flagByte_eq_one_iff]
  exact hfirst.collision_again hsecond

/-! ## The start position (R153) -/

theorem drawColumn_mod (vx vy r : Nat) (b : Byte) : drawColumn (vx % 64) (vy % 32) r b = drawColumn vx vy r b := by
  funext p c
  simp only [drawColumn, Nat.mod_add_mod]

theorem drawRows_mod (vx vy r : Nat) (bs : List Byte) (p : Framebuffer × Bool) :
    drawRows (vx % 64) (vy % 32) r bs p = drawRows vx vy r bs p := by
  induction bs generalizing r p with
  | nil => rfl
  | cons b bs ih => simp only [drawRows, drawRow, drawColumn_mod, ih]

/-- Settles O34: every column and row is taken modulo the size of the screen, so the start position may be too. -/
theorem drawWrapsItsCoordinates : Obligations.DrawWrapsItsCoordinates := by
  unfold Obligations.DrawWrapsItsCoordinates
  exact fun vx vy rows fb => (drawRows_mod vx vy 0 rows (fb, false)).symm

end Sys2Proof.Machine
end

section
/-! SUPPORT. What any instruction does, said once: it completes inside its row of the access table (R45) with `pc` where the
contract puts it (R100), or it raises precisely (R177); and the inputs of the Step pass through it. -/

namespace Sys2Proof.Machine

/-! ## An instruction completes or raises -/

/-- `t` is `s` after an instruction raised: a fault of codes 2 to 4, with the word in `ir` recorded (R176). -/
def ExecRaised (s t : State) : Prop :=
  ∃ c, c ≠ .none ∧ c ≠ .fetchOutOfRange ∧ Raised c s t ∧ t.faultInfo.opcode = s.ir

/-- `t` is where instruction `i` completes from `s`: R45 and R100. -/
structure Completed (i : Instr) (s t : State) : Prop where
  frame : Unchanged (writesOf s i) s t
  pc : PcContract i s t

section
variable {i : Instr} {s t : State}

theorem execRaised_raiseAddress (s : State) : ExecRaised s s.raiseAddress :=
  ⟨.addressOutOfRange, by decide, by decide, s.raiseAddress_raised, rfl⟩

theorem withAccess_next_cases {n : Nat} {done : State} (h : s.withAccess n done = .next t) :
    t = done ∨ t = s.raiseAddress := by
  obtain ⟨_, hraise⟩ | ⟨_, hdone⟩ := s.withAccess_cases n done
  · exact .inr (Host.Outcome.next.inj (h.symm.trans hraise))
  · exact .inl (Host.Outcome.next.inj (h.symm.trans hdone))

theorem completed_or_raised_of_withAccess {n : Nat} {done : State} (hdone : Completed i s done)
    (h : s.withAccess n done = .next t) : Completed i s t ∨ ExecRaised s t := by
  obtain rfl | rfl := withAccess_next_cases h
  · exact .inl hdone
  · exact .inr (execRaised_raiseAddress s)

/-- What RET can do, by the range of `sp`. -/
theorem exec_ret_cases (s : State) :
    (s.sp.toNat = 0 ∧ exec .ret s = .next (s.raiseOpcode .stackUnderflow)) ∨
    (∃ (j : Nat) (hj : j < 16), s.sp.toNat = j + 1 ∧ exec .ret s = .next (s.pop.setPc (s.stack[j] + 2#16))) ∨
    (16 < s.sp.toNat ∧ exec .ret s = .fault .stackPointerRange) := by
  rcases hsp : s.sp.toNat with _ | j
  · exact .inl ⟨rfl, exec_ret_empty hsp⟩
  · by_cases hj : j < 16
    · exact .inr (.inl ⟨j, hj, rfl, exec_ret_held hj hsp⟩)
    · exact .inr (.inr ⟨by omega, exec_ret_above (by omega)⟩)

/-- What CALL can do, by the range of `sp`. -/
theorem exec_call_cases (nnn : Addr12) (s : State) :
    (∃ h : s.sp.toNat < 16, exec (.call nnn) s = .next ((s.push s.pc h).setPc (zext16 nnn))) ∨
    (s.sp.toNat = 16 ∧ exec (.call nnn) s = .next (s.raiseOpcode .stackOverflow)) ∨
    (16 < s.sp.toNat ∧ exec (.call nnn) s = .fault .stackPointerRange) := by
  obtain hroom | hfull | habove := Nat.lt_trichotomy s.sp.toNat 16
  · exact .inl ⟨hroom, exec_call_room nnn hroom⟩
  · exact .inr (.inl ⟨hfull, exec_call_full nnn hfull⟩)
  · exact .inr (.inr ⟨habove, exec_call_above nnn habove⟩)

theorem exec_ret_next_cases (h : exec .ret s = .next t) : Completed .ret s t ∨ ExecRaised s t := by
  obtain ⟨_, hraise⟩ | ⟨j, hj, hsp, hpop⟩ | ⟨_, hstop⟩ := exec_ret_cases s
  · obtain rfl := Host.Outcome.next.inj (hraise.symm.trans h)
    exact .inr ⟨.stackUnderflow, by decide, by decide, s.raiseOpcode_raised _, rfl⟩
  · obtain rfl := Host.Outcome.next.inj (hpop.symm.trans h)
    exact .inl ⟨unchanged_pop_setPc s _, j, hj, hsp.symm, rfl⟩
  · cases hstop.symm.trans h

theorem exec_call_next_cases {nnn : Addr12} (h : exec (.call nnn) s = .next t) :
    Completed (.call nnn) s t ∨ ExecRaised s t := by
  obtain ⟨hroom, hpush⟩ | ⟨_, hraise⟩ | ⟨_, hstop⟩ := exec_call_cases nnn s
  · obtain rfl := Host.Outcome.next.inj (hpush.symm.trans h)
    exact .inl ⟨unchanged_push_setPc s _ _ hroom, toNat_zext16 nnn⟩
  · obtain rfl := Host.Outcome.next.inj (hraise.symm.trans h)
    exact .inr ⟨.stackOverflow, by decide, by decide, s.raiseOpcode_raised _, rfl⟩
  · cases hstop.symm.trans h

/-- The one case split over the 34 instructions that frames and `pc` rest on. -/
theorem exec_next_cases (h : exec i s = .next t) : Completed i s t ∨ ExecRaised s t := by
  cases i with
  | ret => exact exec_ret_next_cases h
  | call nnn => exact exec_call_next_cases h
  | drw x y n => exact completed_or_raised_of_withAccess ⟨unchanged_drwDone s x y n, rfl⟩ h
  | bcd x => exact completed_or_raised_of_withAccess ⟨unchanged_bcd s x, rfl⟩ h
  | storeRegs x => exact completed_or_raised_of_withAccess ⟨unchanged_storeRegs s x, rfl⟩ h
  | loadRegs x => exact completed_or_raised_of_withAccess ⟨unchanged_loadFromI_advance s _, rfl⟩ h
  | jp nnn =>
    obtain rfl := Host.Outcome.next.inj h
    exact .inl ⟨unchanged_setPc _ s _, toNat_zext16 nnn⟩
  | jpV0 nnn =>
    obtain rfl := Host.Outcome.next.inj h
    exact .inl ⟨unchanged_setPc _ s _, toNat_jpV0_target s nnn⟩
  | seImm | sneImm | seReg | sneReg =>
    obtain rfl := Host.Outcome.next.inj h
    exact .inl ⟨unchanged_skipIf _ s _, by simp [PcContract]⟩
  | skp x =>
    obtain rfl := Host.Outcome.next.inj ((exec_skp x s).symm.trans h)
    exact .inl ⟨unchanged_skipIf _ s _, rfl⟩
  | sknp x =>
    obtain rfl := Host.Outcome.next.inj ((exec_sknp x s).symm.trans h)
    exact .inl ⟨unchanged_skipIf _ s _, by simp [PcContract]⟩
  | ldImm | addImm | ldReg | orReg | andReg | xorReg | rnd | ldVxDt =>
    obtain rfl := Host.Outcome.next.inj h
    exact .inl ⟨unchanged_aluResult s _ _, rfl⟩
  | addReg | sub | shr | subn | shl =>
    obtain rfl := Host.Outcome.next.inj h
    exact .inl ⟨unchanged_aluFlagged s _ _ _, rfl⟩
  | ldI | addI | ldF =>
    obtain rfl := Host.Outcome.next.inj h
    exact .inl ⟨unchanged_setI_advance s _, rfl⟩
  | cls =>
    obtain rfl := Host.Outcome.next.inj h
    exact .inl ⟨unchanged_setFb_advance s _, rfl⟩
  | ldDtVx =>
    obtain rfl := Host.Outcome.next.inj h
    exact .inl ⟨unchanged_setDt_advance s _, rfl⟩
  | ldStVx =>
    obtain rfl := Host.Outcome.next.inj h
    exact .inl ⟨unchanged_setSt_advance s _, rfl⟩
  | ldVxK x =>
    obtain rfl := Host.Outcome.next.inj h
    exact .inl ⟨unchanged_enterWait rfl s x, rfl⟩

theorem ExecRaised.raised (h : ExecRaised s t) : ∃ c, c ≠ .none ∧ Raised c s t := by
  obtain ⟨c, hnone, -, hraised, -⟩ := h
  exact ⟨c, hnone, hraised⟩

end

/-- Settles O56. -/
theorem instructionsWriteOnlyTheirTableEntries : Obligations.InstructionsWriteOnlyTheirTableEntries := by
  unfold Obligations.InstructionsWriteOnlyTheirTableEntries
  exact fun i s t h => (exec_next_cases h).imp Completed.frame ExecRaised.raised

/-- Settles O57. -/
theorem pcFollowsItsContract : Obligations.PcFollowsItsContract := by
  unfold Obligations.PcFollowsItsContract
  exact fun i s t h => (exec_next_cases h).imp Completed.pc ExecRaised.raised

/-! ## The inputs of a Step -/

/-- `s` with other samples and timers. -/
def State.withInputs (s : State) (keys : BitVec 16) (rnd dt st : Byte) : State :=
  { s with keysIn := keys, rndIn := rnd, dt := dt, st := st }

/-- What `dt` holds after `i`, which ended in `t`, when it held `dt` before: only LD DT, Vx writes it. -/
def delayAfter (i : Instr) (t : State) (dt : Byte) : Byte :=
  match i with
  | .ldDtVx _ => t.dt
  | _ => dt

/-- What `st` holds after `i`, which ended in `t`, when it held `st` before: only LD ST, Vx writes it. -/
def soundAfter (i : Instr) (t : State) (st : Byte) : Byte :=
  match i with
  | .ldStVx _ => t.st
  | _ => st

section
variable {i : Instr} {s t : State} {keys : BitVec 16} {rnd dt st : Byte}

theorem delayAfter_of_ne (h : ∀ x, i ≠ .ldDtVx x) : delayAfter i t dt = dt := by
  cases i with
  | ldDtVx x => exact absurd rfl (h x)
  | _ => rfl

theorem soundAfter_of_ne (h : ∀ x, i ≠ .ldStVx x) : soundAfter i t st = st := by
  cases i with
  | ldStVx x => exact absurd rfl (h x)
  | _ => rfl

/-- The range check looks at `I` only, and a raise keeps the inputs. -/
theorem withAccess_withInputs {n : Nat} {done : State} (h : s.withAccess n done = .next t) :
    (s.withInputs keys rnd dt st).withAccess n (done.withInputs keys rnd dt st) = .next (t.withInputs keys rnd dt st) := by
  obtain ⟨⟨h1, hout⟩, hraise⟩ | ⟨hin, hdone⟩ := s.withAccess_cases n done
  · obtain rfl := Host.Outcome.next.inj (hraise.symm.trans h)
    exact State.withAccess_outside _ _ h1 hout
  · obtain rfl := Host.Outcome.next.inj (hdone.symm.trans h)
    exact State.withAccess_inside _ _ hin

theorem exec_ret_withInputs (h : exec .ret s = .next t) :
    exec .ret (s.withInputs keys rnd dt st) = .next (t.withInputs keys rnd dt st) := by
  obtain ⟨h0, hraise⟩ | ⟨j, hj, hsp, hpop⟩ | ⟨_, hstop⟩ := exec_ret_cases s
  · obtain rfl := Host.Outcome.next.inj (hraise.symm.trans h)
    exact exec_ret_empty h0
  · obtain rfl := Host.Outcome.next.inj (hpop.symm.trans h)
    exact exec_ret_held hj hsp
  · cases hstop.symm.trans h

theorem exec_call_withInputs {nnn : Addr12} (h : exec (.call nnn) s = .next t) :
    exec (.call nnn) (s.withInputs keys rnd dt st) = .next (t.withInputs keys rnd dt st) := by
  obtain ⟨hroom, hpush⟩ | ⟨hfull, hraise⟩ | ⟨_, hstop⟩ := exec_call_cases nnn s
  · obtain rfl := Host.Outcome.next.inj (hpush.symm.trans h)
    exact exec_call_room (s := s.withInputs keys rnd dt st) nnn hroom
  · obtain rfl := Host.Outcome.next.inj (hraise.symm.trans h)
    exact exec_call_full nnn hfull
  · cases hstop.symm.trans h

/-- An input that an instruction does not read passes through it: the one case split over the 34 instructions that R26, R38 and
R39 rest on. -/
theorem exec_withInputs (hkeys : keys = s.keysIn ∨ ∀ x, i ≠ .skp x ∧ i ≠ .sknp x)
    (hrnd : rnd = s.rndIn ∨ ∀ x kk, i ≠ .rnd x kk) (hdt : dt = s.dt ∨ ∀ x, i ≠ .ldVxDt x) (h : exec i s = .next t) :
    exec i (s.withInputs keys rnd dt st) =
      .next (t.withInputs keys rnd (delayAfter i t dt) (soundAfter i t st)) := by
  cases i with
  | ret => exact exec_ret_withInputs h
  | call nnn => exact exec_call_withInputs h
  | drw | bcd | storeRegs | loadRegs => exact withAccess_withInputs h
  | skp x =>
    obtain rfl := hkeys.resolve_right fun hne => (hne x).1 rfl
    obtain rfl := Host.Outcome.next.inj h
    rfl
  | sknp x =>
    obtain rfl := hkeys.resolve_right fun hne => (hne x).2 rfl
    obtain rfl := Host.Outcome.next.inj h
    rfl
  | rnd x kk =>
    obtain rfl := hrnd.resolve_right fun hne => hne x kk rfl
    obtain rfl := Host.Outcome.next.inj h
    rfl
  | ldVxDt x =>
    obtain rfl := hdt.resolve_right fun hne => hne x rfl
    obtain rfl := Host.Outcome.next.inj h
    rfl
  | _ =>
    obtain rfl := Host.Outcome.next.inj h
    rfl

/-- An instruction leaves the inputs, but for the timer it writes. -/
theorem inputs_of_exec (h : exec i s = .next t) :
    t.keysIn = s.keysIn ∧ t.rndIn = s.rndIn ∧ t.dt = delayAfter i t s.dt ∧ t.st = soundAfter i t s.st := by
  have hsame := exec_withInputs (st := s.st) (.inl rfl) (.inl rfl) (.inl rfl) h
  have ht := Host.Outcome.next.inj (h.symm.trans hsame)
  have hkeys := congrArg State.keysIn ht
  have hrnd := congrArg State.rndIn ht
  have hdt := congrArg State.dt ht
  have hst := congrArg State.st ht
  exact ⟨hkeys, hrnd, hdt, hst⟩

end

/-- Settles O58: in each clause one of the four inputs is another, the rest are those of `s`. -/
theorem inputsAndTimersAreReadByTheirInstructionsOnly : Obligations.InputsAndTimersAreReadByTheirInstructionsOnly := by
  unfold Obligations.InputsAndTimersAreReadByTheirInstructionsOnly
  intro i s t h
  obtain ⟨hkeys, hrnd, hdt, hst⟩ := inputs_of_exec h
  refine ⟨fun hi keys => ?_, fun hi rnd => ?_, fun hi dt => ?_, fun st => ?_⟩
  · refine (exec_withInputs (.inr hi) (.inl rfl) (.inl rfl) h).trans (congrArg _ ?_)
    rw [← hrnd, ← hdt, ← hst]
    rfl
  · refine (exec_withInputs (.inl rfl) (.inr hi) (.inl rfl) h).trans (congrArg _ ?_)
    rw [← hkeys, ← hdt, ← hst]
    rfl
  · refine ⟨_, exec_withInputs (.inl rfl) (.inl rfl) (.inr hi) h, ?_, ?_, delayAfter_of_ne⟩
    · rw [← hkeys, ← hrnd, ← hst]
      rfl
    · rintro ⟨x, rfl⟩
      rfl
  · refine ⟨_, exec_withInputs (.inl rfl) (.inl rfl) (.inl rfl) h, ?_, ?_, soundAfter_of_ne⟩
    · rw [← hkeys, ← hrnd, ← hdt]
      rfl
    · rintro ⟨x, rfl⟩
      rfl

/-- Settles O47: a Tick gives other timers, which the instruction neither reads nor writes. -/
theorem tickCommutesWithOtherInstructions : Obligations.TickCommutesWithOtherInstructions := by
  unfold Obligations.TickCommutesWithOtherInstructions
  intro i s t hi h hfault
  by_cases hs : s.fault = .none
  · obtain ⟨hkeys, hrnd, hdt, hst⟩ := inputs_of_exec h
    rw [delayAfter_of_ne fun x => (hi x).2.1] at hdt
    rw [soundAfter_of_ne fun x => (hi x).2.2] at hst
    rw [s.tick_running hs, t.tick_running (hfault.trans hs), hdt, hst]
    refine (exec_withInputs (.inl rfl) (.inl rfl) (.inr fun x => (hi x).1) h).trans (congrArg _ ?_)
    rw [delayAfter_of_ne fun x => (hi x).2.1, soundAfter_of_ne fun x => (hi x).2.2, ← hkeys, ← hrnd]
    rfl
  · rw [s.tick_halted hs, t.tick_halted (by rwa [hfault])]
    exact h

/-! ## Canonical memory and progress -/

theorem withAccess_store_mem {s t : State} {n : Nat} {bs : List Byte} (hn : bs.length = n) (hpos : n ≠ 0)
    (h : s.withAccess n (s.storeBytes (s.ea 0) bs).advance = .next t) :
    t.mem = s.mem ∨ ∃ bs, s.ea 0 + bs.length ≤ 4096 ∧ t.mem = s.mem.writeBytes (s.ea 0) bs := by
  obtain ⟨_, hraise⟩ | ⟨hin, hdone⟩ := s.withAccess_cases n (s.storeBytes (s.ea 0) bs).advance
  · obtain rfl := Host.Outcome.next.inj (hraise.symm.trans h)
    exact .inl rfl
  · obtain rfl := Host.Outcome.next.inj (hdone.symm.trans h)
    exact .inr ⟨bs, by rw [hn]; exact hin.resolve_left hpos, rfl⟩

/-- What an instruction can do to memory: nothing, or a store from `I` up inside the 4096 bytes. -/
theorem exec_mem_cases {i : Instr} {s t : State} (h : exec i s = .next t) :
    t.mem = s.mem ∨ ∃ bs, s.ea 0 + bs.length ≤ 4096 ∧ t.mem = s.mem.writeBytes (s.ea 0) bs := by
  cases i with
  | bcd x => exact withAccess_store_mem (n := 3) (bs := bcdDigits (s.reg x)) rfl (by decide) h
  | storeRegs x => exact withAccess_store_mem (s.firstRegs_length x) (Nat.succ_ne_zero _) h
  | drw | loadRegs =>
    obtain rfl | rfl := withAccess_next_cases h
    · exact .inl rfl
    · exact .inl rfl
  | ret =>
    obtain ⟨_, hrun⟩ | ⟨_, _, _, hrun⟩ | ⟨_, hrun⟩ := exec_ret_cases s <;> cases hrun.symm.trans h
    · exact .inl rfl
    · exact .inl rfl
  | call nnn =>
    obtain ⟨_, hrun⟩ | ⟨_, hrun⟩ | ⟨_, hrun⟩ := exec_call_cases nnn s <;> cases hrun.symm.trans h
    · exact .inl rfl
    · exact .inl rfl
  | _ =>
    obtain rfl := Host.Outcome.next.inj h
    exact .inl rfl

theorem exec_mem_wf {i : Instr} {s t : State} (h : exec i s = .next t) (hwf : s.mem.wf = true) : t.mem.wf = true := by
  obtain hmem | ⟨bs, hin, hmem⟩ := exec_mem_cases h
  · rwa [hmem]
  · rw [hmem]
    exact Memory.wf_writeBytes hwf hin

/-- With `sp` in its range no instruction stops. -/
theorem exec_next_of_depth (i : Instr) {s : State} (hsp : s.sp.toNat ≤ 16) : ∃ t, exec i s = .next t := by
  cases i with
  | ret =>
    obtain ⟨_, hraise⟩ | ⟨_, _, _, hpop⟩ | ⟨habove, _⟩ := exec_ret_cases s
    · exact ⟨_, hraise⟩
    · exact ⟨_, hpop⟩
    · omega
  | call nnn =>
    obtain ⟨_, hpush⟩ | ⟨_, hraise⟩ | ⟨habove, _⟩ := exec_call_cases nnn s
    · exact ⟨_, hpush⟩
    · exact ⟨_, hraise⟩
    · omega
  | drw | bcd | storeRegs | loadRegs =>
    obtain ⟨_, hraise⟩ | ⟨_, hdone⟩ := s.withAccess_cases _ _
    · exact ⟨_, hraise⟩
    · exact ⟨_, hdone⟩
  | _ => exact ⟨_, rfl⟩

end Sys2Proof.Machine
end

section
/-! SUPPORT. The Step sequencer and the host's events (`60_exceptions.md`): what one step of the machine can be, a Running Step by
its exits of R170, precise faults, the halted machine, Ticks, and the key wait from its press to its release. -/

namespace Sys2Proof.Machine

/-! ## One step of the machine -/

/-- The state a Step event finds: the event consumed, its samples presented, and what Ticks before it may have written. -/
def State.issueStep (s : State) (keys : BitVec 16) (rnd dt st : Byte) (draws : Nat) : State :=
  { s with host := s.host.tail, keysIn := keys, rndIn := rnd, dt := dt, st := st, draws := draws }

section
variable (s : State) (n : Nat)

theorem toNat_ticks_dt_le : (s.ticks n).dt.toNat ≤ s.dt.toNat := by
  by_cases h : s.fault = .none
  · rw [s.ticks_running n h]
    exact (Nat.mod_le _ _).trans (Nat.sub_le _ _)
  · rw [s.ticks_halted n h]

theorem toNat_ticks_st_le : (s.ticks n).st.toNat ≤ s.st.toNat := by
  by_cases h : s.fault = .none
  · rw [s.ticks_running n h]
    exact (Nat.mod_le _ _).trans (Nat.sub_le _ _)
  · rw [s.ticks_halted n h]

@[simp] theorem State.ticks_pc : (s.ticks n).pc = s.pc := by rw [s.ticks_frame]
@[simp] theorem State.ticks_mem : (s.ticks n).mem = s.mem := by rw [s.ticks_frame]
@[simp] theorem State.ticks_kw : (s.ticks n).kw = s.kw := by rw [s.ticks_frame]
@[simp] theorem State.ticks_fault : (s.ticks n).fault = s.fault := by rw [s.ticks_frame]
@[simp] theorem State.ticks_host : (s.ticks n).host = s.host := by rw [s.ticks_frame]

theorem present_ticks {s : State} (n draws : Nat) (keys : BitVec 16) (rnd : Byte) (hhost : s.host = []) :
    State.present { s.ticks n with draws := draws } keys rnd =
      s.issueStep keys rnd (s.ticks n).dt (s.ticks n).st draws := by
  have htail : s.host.tail = s.host := by rw [hhost, List.tail_nil]
  have hframe := s.ticks_frame n
  rw [State.issueStep, htail]
  generalize s.ticks n = u at *
  rw [hframe]
  rfl

end

theorem step_nil {s : State} (hhost : s.host = []) : step s = runStep
    (State.present { s.ticks (Config.ticksBefore s.draws) with draws := s.draws + 1 }
      (Config.keysInput s.draws) (Config.rndInput s.draws)) := by
  rw [step, s.nextEvent_nil hhost]
  rfl

theorem step_step {s : State} {keys : BitVec 16} {rnd : Byte} {rest : List HostEvent}
    (hhost : s.host = .step keys rnd :: rest) :
    step s = runStep { s with host := rest, keysIn := keys, rndIn := rnd } :=
  step_cons s hhost

/-- What a step can be: a Step event, after Ticks when the queue is empty; a Tick; an Init (R11). -/
theorem step_cases (s : State) :
    (∃ keys rnd dt st draws, (dt.toNat ≤ s.dt.toNat ∧ st.toNat ≤ s.st.toNat) ∧ (s.fault ≠ .none → dt = s.dt ∧ st = s.st) ∧
      step s = runStep (s.issueStep keys rnd dt st draws)) ∨
    (∃ rest, s.host = .tick :: rest ∧ step s = .next (State.tick { s with host := rest })) ∨
    (∃ a rest, s.host = .init a :: rest ∧ step s = State.initEvent { s with host := rest } a) := by
  rcases hhost : s.host with _ | ⟨e, rest⟩
  · refine .inl ⟨_, _, _, _, _, ⟨toNat_ticks_dt_le s (Config.ticksBefore s.draws), toNat_ticks_st_le s _⟩,
      fun hf => ?_, (step_nil hhost).trans (congrArg runStep (present_ticks _ _ _ _ hhost))⟩
    rw [s.ticks_halted _ hf]
    exact ⟨rfl, rfl⟩
  · have hstep := step_cons s hhost
    cases e with
    | step keys rnd =>
      refine .inl ⟨keys, rnd, s.dt, s.st, s.draws, ⟨le_rfl, le_rfl⟩, fun _ => ⟨rfl, rfl⟩, ?_⟩
      rw [hstep, State.issueStep, hhost]
      rfl
    | tick => exact .inr (.inl ⟨rest, rfl, hstep⟩)
    | init a => exact .inr (.inr ⟨a, rest, rfl, hstep⟩)

section
variable {s : State} {keys : BitVec 16} {rnd : Byte}

/-! ## A Running Step by its exits (R170) -/

theorem runStep_running (hfault : s.fault = .none) (hkw : s.kw = .running) : runStep s = runInstr s := by
  simp [runStep, hfault, hkw]

theorem runInstr_decoded {i : Instr} (hpc : s.pc.toNat ≤ 4094) (hd : decodeWord s.fetchWord = some i) :
    runInstr s = exec i (s.latchIr s.fetchWord) := by
  simp [runInstr, Nat.not_lt.2 hpc, hd]

theorem runInstr_illegal (hpc : s.pc.toNat ≤ 4094) (hw : IllegalWord s.fetchWord) :
    runInstr s = .next ((s.latchIr s.fetchWord).raiseOpcode .decodeFailure) := by
  simp [runInstr, Nat.not_lt.2 hpc, (decodeWord_eq_none_iff s.fetchWord).2 hw]

theorem runInstr_beyond (hpc : 4094 < s.pc.toNat) : runInstr s = .next s.raiseFetch :=
  if_pos hpc

theorem runStep_present_decoded {i : Instr} (hfault : s.fault = .none) (hkw : s.kw = .running) (hpc : s.pc.toNat ≤ 4094)
    (hd : decodeWord s.fetchWord = some i) : runStep (s.present keys rnd) = exec i (fetched s keys rnd s.host) :=
  (runStep_running (s := s.present keys rnd) hfault hkw).trans (runInstr_decoded (s := s.present keys rnd) hpc hd)

end

/-- Settles O40: from an empty queue the Ticks before the Step leave what it fetches. -/
theorem stepRunsTheDecodedInstruction : Obligations.StepRunsTheDecodedInstruction := by
  unfold Obligations.StepRunsTheDecodedInstruction
  intro s i hfault hkw hpc hd
  refine ⟨fun keys rnd rest hhost => ?_, fun hhost => ?_⟩
  · exact (step_step hhost).trans (runStep_present_decoded (s := { s with host := rest }) hfault hkw hpc hd)
  · rw [step_nil hhost, runStep_present_decoded (i := i)]
    · simp [hhost]
    · simpa using hfault
    · simpa using hkw
    · simpa using hpc
    · simpa [State.fetchWord, Memory.readWord] using hd

/-- Settles O41. -/
theorem illegalWordRaisesDecodeFailure : Obligations.IllegalWordRaisesDecodeFailure := by
  unfold Obligations.IllegalWordRaisesDecodeFailure
  intro s keys rnd rest hhost hfault hkw hpc hw
  have hstep := (step_step hhost).trans (runStep_running hfault hkw)
  exact ⟨_, hstep.trans (runInstr_illegal hpc hw), State.raiseOpcode_raised _ _, rfl⟩

/-- Settles O42. -/
theorem fetchBeyondMemoryRaises : Obligations.FetchBeyondMemoryRaises := by
  unfold Obligations.FetchBeyondMemoryRaises
  intro s keys rnd rest hhost hfault hkw hpc
  have hstep := (step_step hhost).trans (runStep_running hfault hkw)
  exact ⟨_, hstep.trans (runInstr_beyond hpc), State.raiseFetch_raised _⟩

/-! ## Precise faults (R177) -/

theorem State.pollPress_fault (s : State) : s.pollPress.fault = s.fault := by
  unfold State.pollPress
  split <;> rfl

theorem State.pollRelease_fault (s : State) : s.pollRelease.fault = s.fault := by
  unfold State.pollRelease
  split <;> rfl

/-- What a Running Step that latches a fault leaves: it has fetched or it has not. -/
theorem runInstr_precise {s t : State} (hfault : s.fault = .none) (h : runInstr s = .next t) (ht : t.fault ≠ .none) :
    t.faultInfo.pc = s.pc ∧
    t = { s with fault := t.fault, faultInfo := t.faultInfo, draws := t.draws, ir := t.ir } ∧
    (t.fault = .fetchOutOfRange → 4094 < s.pc.toNat ∧ t.ir = s.ir) ∧
    (t.fault ≠ .fetchOutOfRange → s.pc.toNat ≤ 4094 ∧ t.ir = s.fetchWord ∧ t.faultInfo.opcode = t.ir) := by
  obtain ⟨hpc, hrun⟩ | ⟨hpc, _, hrun⟩ | ⟨i, hpc, _, hrun⟩ := runInstr_cases s
  · obtain rfl := Host.Outcome.next.inj (hrun.symm.trans h)
    exact ⟨rfl, rfl, fun _ => ⟨hpc, rfl⟩, fun hne => absurd rfl hne⟩
  · obtain rfl := Host.Outcome.next.inj (hrun.symm.trans h)
    exact ⟨rfl, rfl, nofun, fun _ => ⟨hpc, rfl, rfl⟩⟩
  · obtain hdone | ⟨c, _, hc, ⟨hframe, hinfo⟩, hopcode⟩ := exec_next_cases (hrun.symm.trans h)
    · exact absurd (hdone.frame.latch.1.trans hfault) ht
    · have hcode : t.fault = c := congrArg State.fault hframe
      have hir : t.ir = s.fetchWord := congrArg State.ir hframe
      rw [hcode, hir]
      exact ⟨hinfo, hframe, fun e => absurd e hc, fun _ => ⟨hpc, rfl, hopcode⟩⟩

/-- Settles O43: a poll latches no fault, so the Step is a Running one. -/
theorem faultsArePrecise : Obligations.FaultsArePrecise := by
  unfold Obligations.FaultsArePrecise
  intro s t keys rnd rest hhost hfault hstep ht
  rw [step_step hhost] at hstep
  obtain ⟨hhalted, _⟩ | ⟨_, _, hrun⟩ | ⟨_, _, hrun⟩ | ⟨_, hkw, hrun⟩ :=
    runStep_cases { s with host := rest, keysIn := keys, rndIn := rnd }
  · exact absurd hfault hhalted
  · obtain rfl := Host.Outcome.next.inj (hrun.symm.trans hstep)
    rw [State.pollPress_fault] at ht
    exact absurd hfault ht
  · obtain rfl := Host.Outcome.next.inj (hrun.symm.trans hstep)
    rw [State.pollRelease_fault] at ht
    exact absurd hfault ht
  · exact ⟨hkw, runInstr_precise (s := { s with host := rest, keysIn := keys, rndIn := rnd }) hfault
      (hrun.symm.trans hstep) ht⟩

/-! ## Ticks (R183) -/

theorem step_tick {s : State} {rest : List HostEvent} (hhost : s.host = .tick :: rest) (hfault : s.fault = .none) :
    step s = .next { s with host := rest, dt := countDown s.dt, st := countDown s.st } :=
  (step_cons s hhost).trans (congrArg _ (State.tick_running { s with host := rest } hfault))

theorem step_tick_halted {s : State} {rest : List HostEvent} (hhost : s.host = .tick :: rest) (hfault : s.fault ≠ .none) :
    step s = .next { s with host := rest } :=
  (step_cons s hhost).trans (congrArg _ (State.tick_halted { s with host := rest } hfault))

/-- Settles O45. -/
theorem tickCountsBothTimersDown : Obligations.TickCountsBothTimersDown := by
  unfold Obligations.TickCountsBothTimersDown
  intro s rest hhost
  by_cases hfault : s.fault = .none
  · exact ⟨_, step_tick hhost hfault, rfl, fun _ => ⟨countDown_toNat s.dt, countDown_toNat s.st⟩,
      fun hne => absurd hfault hne⟩
  · exact ⟨_, step_tick_halted hhost hfault, rfl, fun h => absurd h hfault, fun _ => ⟨rfl, rfl⟩⟩

/-- Settles O46, by induction on the number of Ticks. -/
theorem ticksFloorTheTimersAtZero : Obligations.TicksFloorTheTimersAtZero := by
  unfold Obligations.TicksFloorTheTimersAtZero
  intro n
  induction n with
  | zero =>
    intro s rest _ hhost
    obtain rfl : s.host = rest := hhost
    exact ⟨s, rfl, rfl, rfl, rfl⟩
  | succ n ih =>
    intro s rest hfault hhost
    have hstep := step_tick (rest := List.replicate n .tick ++ rest) hhost hfault
    obtain ⟨t, hrun, hdt, hst, hframe⟩ :=
      ih { s with host := List.replicate n .tick ++ rest, dt := countDown s.dt, st := countDown s.st } rest hfault rfl
    refine ⟨t, (run_succ hstep).trans hrun, ?_, ?_, hframe⟩
    · rw [hdt, countDown_toNat, Nat.sub_sub, Nat.add_comm 1]
    · rw [hst, countDown_toNat, Nat.sub_sub, Nat.add_comm 1]

/-! ## The halted machine (R178) -/

theorem SameArch.refl (s : State) : SameArch s s := rfl

theorem SameArch.trans {s t u : State} (h : SameArch s t) (h' : SameArch t u) : SameArch s u := by
  rw [SameArch] at h h' ⊢
  rw [h', h]

theorem SameArch.fault_eq {s t : State} (h : SameArch s t) : t.fault = s.fault := by
  rw [SameArch] at h
  rw [h]

theorem runStep_halted {s : State} (h : s.fault ≠ .none) : runStep s = .next s := if_pos h

/-- One event that is no Init: the samples and the queue move, nothing else does. -/
theorem step_halted {s : State} (hfault : s.fault ≠ .none) (hno : ∀ a, HostEvent.init a ∉ s.host) :
    ∃ t, step s = .next t ∧ SameArch s t ∧ t.host = s.host.tail := by
  obtain ⟨keys, rnd, dt, st, draws, -, htimers, hstep⟩ | ⟨rest, hhost, -⟩ | ⟨a, rest, hhost, -⟩ := step_cases s
  · obtain ⟨rfl, rfl⟩ := htimers hfault
    exact ⟨_, hstep.trans (runStep_halted hfault), rfl, rfl⟩
  · exact ⟨_, step_tick_halted hhost hfault, rfl, by rw [hhost, List.tail_cons]⟩
  · exact absurd (hhost ▸ List.mem_cons_self) (hno a)

/-- Settles O44, by induction on the number of events. -/
theorem haltedMachineNeverChanges : Obligations.HaltedMachineNeverChanges := by
  unfold Obligations.HaltedMachineNeverChanges
  intro n
  induction n with
  | zero => exact fun s _ _ => ⟨s, rfl, SameArch.refl s⟩
  | succ n ih =>
    intro s hfault hno
    obtain ⟨t, hstep, hsame, hhost⟩ := step_halted hfault hno
    obtain ⟨u, hrun, hsame'⟩ := ih t (by rwa [hsame.fault_eq]) fun a ha => hno a (List.mem_of_mem_tail (hhost ▸ ha))
    exact ⟨u, (run_succ hstep).trans hrun, hsame.trans hsame'⟩

/-! ## The key wait (R163 to R166) -/

theorem runStep_awaitingPress {s : State} (hfault : s.fault = .none) (hkw : s.kw = .awaitingPress) :
    runStep s = .next s.pollPress := by
  simp [runStep, hfault, hkw]

/-- The poll latches the key `k` when `k` is the lowest-numbered one held. -/
theorem State.pollPress_lowest {s : State} {k : Nibble} (hk : s.keysIn.getLsbD k.toNat = true)
    (hlow : ∀ j : Nibble, j.toNat < k.toNat → s.keysIn.getLsbD j.toNat = false) :
    s.pollPress = { s with kwKey := k, kw := .awaitingRelease } := by
  have hne : s.keysIn ≠ 0#16 := fun e => by simp [e] at hk
  have hlow' : ∀ j, j < k.toNat → s.keysIn.getLsbD j = false := fun j hj => by
    have h := hlow (BitVec.ofNat 4 j)
    rw [BitVec.toNat_ofNat, Nat.mod_eq_of_lt (hj.trans k.isLt)] at h
    exact h hj
  rw [s.pollPress_held hne, lowestKey_eq hk hlow']

/-- Settles O37. -/
theorem pressStepLatchesTheLowestKey : Obligations.PressStepLatchesTheLowestKey := by
  unfold Obligations.PressStepLatchesTheLowestKey
  intro s keys rnd rest hhost hfault hkw
  have hstep := (step_step hhost).trans (runStep_awaitingPress hfault hkw)
  refine ⟨fun hzero => ?_, fun k hk hlow => ?_⟩
  · rwa [State.pollPress_idle _ hzero] at hstep
  · rwa [State.pollPress_lowest hk hlow] at hstep

/-- `s`, at LD Vx, K, after the entry of the wait and the press of `k`; `rest` is then the queue. -/
def State.pressed (s : State) (x k : Nibble) (keys : BitVec 16) (rnd : Byte) (rest : List HostEvent) : State :=
  { (fetched s keys rnd rest).enterWait x with kw := .awaitingRelease, kwKey := k }

/-- Settles O39: the three Steps are the entry (R163), the press (R164) and the release (R165). -/
theorem keyWaitTakesPressThenRelease : Obligations.KeyWaitTakesPressThenRelease := by
  unfold Obligations.KeyWaitTakesPressThenRelease
  intro s x k a b c r₀ r₁ r₂ rest hfault hkw hpc hd hhost hk hlow hreleased
  have hentry := ((stepRunsTheDecodedInstruction s _ hfault hkw hpc hd).1 a r₀ _ hhost).trans (exec_ldVxK x _)
  have hpress := (pressStepLatchesTheLowestKey ((fetched s a r₀ (.step b r₁ :: .step c r₂ :: rest)).enterWait x)
    b r₁ (.step c r₂ :: rest) rfl hfault rfl).2 k hk hlow
  obtain ⟨u, hrelease, hukw, -, -, hx, hupc, hframe⟩ :=
    (releaseStepResolvesTheWait (s.pressed x k b r₁ (.step c r₂ :: rest)) c r₂ rest rfl hfault rfl).2 hreleased
  have htwo := (run_succ (n := 1) hentry).trans (run_succ (n := 0) hpress)
  refine ⟨⟨_, htwo, rfl, fun _ => rfl, rfl⟩, u, ?_, hukw, hx, fun y hy => ?_, ?_, hframe.host.1⟩
  · exact (run_succ hentry).trans ((run_succ hpress).trans (run_succ (n := 0) hrelease))
  · exact hframe.regs y fun hmem => hy (List.mem_singleton.1 hmem)
  · rw [hupc]
    exact Nat.mod_eq_of_lt (show s.pc.toNat + 2 < 65536 by omega)

end Sys2Proof.Machine
end

section
/-! SUPPORT. Whole-machine rules: when a timer rises, the invariant of the machine and that every step keeps it, progress, Init
(`70_reset_and_hazards.md`), and the word the host places. -/

namespace Sys2Proof.Machine

/-! ## Init (R190 to R192) -/

theorem InitArgs.wf_iff (a : InitArgs) : a.wf = true ↔ a.program.length ≤ 3584 ∧ a.font.length = 80 := by
  simp [InitArgs.wf, InitArgs.programFits, InitArgs.fontComplete]

theorem InitArgs.wf_eq_false_iff (a : InitArgs) : a.wf = false ↔ 3584 < a.program.length ∨ a.font.length ≠ 80 := by
  rw [← Bool.not_eq_true, InitArgs.wf_iff]
  omega

theorem State.initEvent_wf (s : State) {a : InitArgs} (h : a.wf = true) : s.initEvent a = .next (s.init a) := if_pos h

theorem State.initEvent_refused (s : State) {a : InitArgs} (h : a.wf = false) : s.initEvent a = .refused .initArgs := by
  simp [State.initEvent, h]

/-- An Init that goes on is a well-formed one. -/
theorem State.init_of_initEvent_next {s t : State} {a : InitArgs} (h : s.initEvent a = .next t) :
    a.wf = true ∧ t = s.init a := by
  cases hwf : a.wf with
  | true => exact ⟨rfl, Host.Outcome.next.inj (h.symm.trans (s.initEvent_wf hwf))⟩
  | false => cases h.symm.trans (s.initEvent_refused hwf)

theorem step_init {s : State} {a : InitArgs} {rest : List HostEvent} (hhost : s.host = .init a :: rest) :
    step s = State.initEvent { s with host := rest } a :=
  step_cons s hhost

/-- The memory of Init reads as the image (R190). -/
theorem State.read_init (s : State) {a : InitArgs} (hf : a.font.length = 80) (hp : a.program.length ≤ 3584) {k : Nat}
    (hk : k < 4096) : (s.init a).mem.read k = (initImage a)[k]'(by rwa [initImage_length hf hp]) := by
  have hlen := initImage_length hf hp
  have h := Memory.read_ofBytes (a := 0) (k := k) (bs := initImage a) (by omega) (by omega)
  rwa [Nat.zero_add] at h

theorem State.init_reg (s : State) (a : InitArgs) (y : Nibble) : (s.init a).reg y = 0 :=
  Vector.getElem_replicate y.isLt

/-- Settles O49: the elements are those of the reset state, and memory reads as the image. -/
theorem initSetsEveryElement : Obligations.InitSetsEveryElement := by
  unfold Obligations.InitSetsEveryElement
  intro s a rest hhost hf hp
  have hstep := (step_init hhost).trans (State.initEvent_wf _ ((InitArgs.wf_iff a).2 ⟨hp, hf⟩))
  refine ⟨_, hstep, State.init_reg _ a, rfl, rfl, rfl, fun j hj => Vector.getElem_replicate hj, rfl, rfl,
    fun X Y hX hY => pixel_clear hX hY, rfl, rfl, rfl, rfl, rfl, rfl, fun k hk => ?_, fun k hk => ?_, fun k hk => ?_⟩
  · rw [State.read_init _ hf hp (by omega), initImage_font hf hp hk]
  · rw [State.read_init _ hf hp (by omega), initImage_program hf hp hk]
  · rw [State.read_init _ hf hp (by omega), initImage_fill hf hp hk]

/-- Settles O50. -/
theorem overlongInitIsRefused : Obligations.OverlongInitIsRefused := by
  unfold Obligations.OverlongInitIsRefused
  intro s a rest hhost hbad
  exact (step_init hhost).trans (State.initEvent_refused _ ((InitArgs.wf_eq_false_iff a).2 hbad))

/-- The default image holds the reset contents, so its canonical list is empty. -/
theorem ofBytes_defaultImage : Memory.ofBytes 0 (initImage ⟨[], defaultFont, defaultMemFill⟩) = [] := by
  have hf : defaultFont.length = 80 := by decide
  refine Memory.ofBytes_unlisted fun k hk => ?_
  rw [initImage_length hf (Nat.zero_le _)] at hk
  rw [Nat.zero_add, Memory.unlisted]
  split
  · next hfont =>
      rw [initImage_font hf (Nat.zero_le _) hfont]
      exact (List.getD_eq_getElem _ _ (by rwa [hf])).symm
  · next hfill => exact initImage_fill hf (Nat.zero_le _) (by simp; omega)

/-- Settles O51. -/
theorem resetIsInitWithNoProgram : Obligations.ResetIsInitWithNoProgram := by
  unfold Obligations.ResetIsInitWithNoProgram
  rw [State.init, ofBytes_defaultImage]
  rfl

/-! ## When a timer rises (R44 f) -/

theorem State.pollPress_timers (s : State) : s.pollPress.dt = s.dt ∧ s.pollPress.st = s.st := by
  unfold State.pollPress
  split <;> exact ⟨rfl, rfl⟩

theorem State.pollRelease_timers (s : State) : s.pollRelease.dt = s.dt ∧ s.pollRelease.st = s.st := by
  unfold State.pollRelease
  split <;> exact ⟨rfl, rfl⟩

theorem State.toNat_tick_le (s : State) : s.tick.dt.toNat ≤ s.dt.toNat ∧ s.tick.st.toNat ≤ s.st.toNat := by
  by_cases h : s.fault = .none
  · rw [s.tick_running h]
    exact ⟨(countDown_toNat s.dt).trans_le (Nat.sub_le _ _), (countDown_toNat s.st).trans_le (Nat.sub_le _ _)⟩
  · rw [s.tick_halted h]
    exact ⟨le_rfl, le_rfl⟩

section
variable {s t : State}

theorem runInstr_timers (h : runInstr s = .next t) :
    (t.dt = s.dt ∨ ∃ x, decodeWord s.fetchWord = some (.ldDtVx x)) ∧
    (t.st = s.st ∨ ∃ x, decodeWord s.fetchWord = some (.ldStVx x)) := by
  obtain ⟨_, hrun⟩ | ⟨_, _, hrun⟩ | ⟨i, _, hd, hrun⟩ := runInstr_cases s
  · obtain rfl := Host.Outcome.next.inj (hrun.symm.trans h)
    exact ⟨.inl rfl, .inl rfl⟩
  · obtain rfl := Host.Outcome.next.inj (hrun.symm.trans h)
    exact ⟨.inl rfl, .inl rfl⟩
  · obtain ⟨-, -, hdt, hst⟩ := inputs_of_exec (hrun.symm.trans h)
    rw [hd]
    constructor
    · by_cases hi : ∃ x, i = .ldDtVx x
      · exact .inr (hi.imp fun x hx => congrArg some hx)
      · exact .inl (hdt.trans (delayAfter_of_ne fun x hx => hi ⟨x, hx⟩))
    · by_cases hi : ∃ x, i = .ldStVx x
      · exact .inr (hi.imp fun x hx => congrArg some hx)
      · exact .inl (hst.trans (soundAfter_of_ne fun x hx => hi ⟨x, hx⟩))

/-- A Step leaves a timer, or it is a Running one that fetched the timer's instruction. -/
theorem runStep_timers (h : runStep s = .next t) :
    (t.dt = s.dt ∨ s.kw = .running ∧ s.fault = .none ∧ ∃ x, decodeWord s.fetchWord = some (.ldDtVx x)) ∧
    (t.st = s.st ∨ s.kw = .running ∧ s.fault = .none ∧ ∃ x, decodeWord s.fetchWord = some (.ldStVx x)) := by
  obtain ⟨_, hrun⟩ | ⟨_, _, hrun⟩ | ⟨_, _, hrun⟩ | ⟨hfault, hkw, hrun⟩ := runStep_cases s
  · obtain rfl := Host.Outcome.next.inj (hrun.symm.trans h)
    exact ⟨.inl rfl, .inl rfl⟩
  · obtain rfl := Host.Outcome.next.inj (hrun.symm.trans h)
    exact s.pollPress_timers.imp .inl .inl
  · obtain rfl := Host.Outcome.next.inj (hrun.symm.trans h)
    exact s.pollRelease_timers.imp .inl .inl
  · exact (runInstr_timers (hrun.symm.trans h)).imp (Or.imp_right fun hi => ⟨hkw, hfault, hi⟩)
      (Or.imp_right fun hi => ⟨hkw, hfault, hi⟩)

/-- Settles O48: Ticks, before a Step or alone, and Init take no timer up. -/
theorem timersRiseOnlyByTheirInstruction : Obligations.TimersRiseOnlyByTheirInstruction := by
  unfold Obligations.TimersRiseOnlyByTheirInstruction
  intro s t h
  obtain ⟨keys, rnd, dt, st, draws, ⟨hdt, hst⟩, -, hstep⟩ | ⟨rest, -, hstep⟩ | ⟨a, rest, -, hstep⟩ := step_cases s
  · obtain ⟨hd, hs⟩ := runStep_timers (hstep.symm.trans h)
    refine ⟨fun hlt => hd.resolve_left fun he => ?_, fun hlt => hs.resolve_left fun he => ?_⟩
    · rw [he] at hlt
      exact absurd hdt (Nat.not_le.2 hlt)
    · rw [he] at hlt
      exact absurd hst (Nat.not_le.2 hlt)
  · obtain rfl := Host.Outcome.next.inj (hstep.symm.trans h)
    obtain ⟨hd, hs⟩ := State.toNat_tick_le { s with host := rest }
    exact ⟨fun hlt => absurd hd (Nat.not_le.2 hlt), fun hlt => absurd hs (Nat.not_le.2 hlt)⟩
  · obtain ⟨-, rfl⟩ := State.init_of_initEvent_next (hstep.symm.trans h)
    exact ⟨fun hlt => absurd hlt (Nat.not_lt_zero _), fun hlt => absurd hlt (Nat.not_lt_zero _)⟩

/-! ## The invariant, instruction by instruction (R44 a, b, d; R23; R166 f) -/

/-- What a raise leaves, of the elements the invariant speaks of. -/
theorem ExecRaised.same (h : ExecRaised s t) : t.pc = s.pc ∧ t.sp = s.sp ∧ t.stack = s.stack ∧ t.kw = s.kw := by
  obtain ⟨c, -, -, ⟨hframe, -⟩, -⟩ := h
  rw [hframe]
  exact ⟨rfl, rfl, rfl, rfl⟩

theorem exec_same_stack {i : Instr} (h : exec i s = .next t) (hi : (writesOf s i).stack = false) :
    t.sp = s.sp ∧ t.stack = s.stack := by
  obtain hdone | hraised := exec_next_cases h
  · exact hdone.frame.stack hi
  · obtain ⟨-, hsp, hstack, -⟩ := hraised.same
    exact ⟨hsp, hstack⟩

theorem exec_same_wait {i : Instr} (h : exec i s = .next t) (hi : (writesOf s i).wait = false) : t.kw = s.kw := by
  obtain hdone | hraised := exec_next_cases h
  · exact (hdone.frame.wait hi).1
  · obtain ⟨-, -, -, hkw⟩ := hraised.same
    exact hkw

/-- R44 (a), (b) as one property: the depth is in range and every held return address is that of a fetched CALL. -/
def StackOk (s : State) : Prop := s.sp.toNat ≤ 16 ∧ ∀ (j : Nat) (h : j < 16), j < s.sp.toNat → (s.stack[j]).toNat ≤ 4094

theorem stackOk_push {a : Word} (h : StackOk s) (ha : a.toNat ≤ 4094) (hroom : s.sp.toNat < 16) : StackOk (s.push a hroom) := by
  obtain ⟨-, hslots⟩ := h
  have hsp := toNat_push_sp a hroom
  refine ⟨by omega, fun j hj hlt => ?_⟩
  rw [State.push_stack, Vector.getElem_set]
  split
  · exact ha
  · exact hslots j hj (by omega)

theorem stackOk_pop {j : Nat} (h : StackOk s) (hsp : s.sp.toNat = j + 1) : StackOk s.pop := by
  obtain ⟨hdepth, hslots⟩ := h
  have hsp' := toNat_pop_sp hsp
  exact ⟨by omega, fun k hk hlt => hslots k hk (by omega)⟩

theorem stackOk_of_same (h : StackOk s) (hsame : t.sp = s.sp ∧ t.stack = s.stack) : StackOk t := by
  obtain ⟨hsp, hstack⟩ := hsame
  rwa [StackOk, hsp, hstack]

theorem exec_stackOk {i : Instr} (hs : StackOk s) (hpc : s.pc.toNat ≤ 4094) (h : exec i s = .next t) : StackOk t := by
  cases i with
  | ret =>
    obtain ⟨_, hrun⟩ | ⟨_, _, hsp, hrun⟩ | ⟨_, hrun⟩ := exec_ret_cases s <;> cases hrun.symm.trans h
    · exact hs
    · exact stackOk_pop hs hsp
  | call nnn =>
    obtain ⟨hroom, hrun⟩ | ⟨_, hrun⟩ | ⟨_, hrun⟩ := exec_call_cases nnn s <;> cases hrun.symm.trans h
    · exact stackOk_push hs hpc hroom
    · exact hs
  | _ => exact stackOk_of_same hs (exec_same_stack h rfl)

/-- R23: from a fetchable `pc` every target of the contract is at most `0x10FE`. -/
theorem pcContract_bound {i : Instr} (hs : StackOk s) (hpc : s.pc.toNat ≤ 4094) (h : PcContract i s t) :
    t.pc.toNat ≤ 0x10FE := by
  have htwo : (s.pc + 2).toNat ≤ 0x10FE := by bv_omega
  have hfour : (s.pc + 4).toNat ≤ 0x10FE := by bv_omega
  have hskip : ∀ c [Decidable c], (if c then s.pc + 4 else s.pc + 2).toNat ≤ 0x10FE :=
    fun c _ => by split <;> assumption
  cases i with
  | seImm | sneImm | seReg | sneReg | skp | sknp => exact (congrArg BitVec.toNat h).trans_le (hskip _)
  | jp nnn | call nnn =>
    have := nnn.isLt
    have : t.pc.toNat = nnn.toNat := h
    omega
  | jpV0 nnn =>
    have := nnn.isLt
    have := (s.reg 0).isLt
    have : t.pc.toNat = nnn.toNat + (s.reg 0).toNat := h
    omega
  | ret =>
    obtain ⟨j, hj, hsp, hpc'⟩ := h
    have hslot := hs.2 j hj (by omega)
    have := toNat_add_two s.stack[j]
    rw [hpc']
    exact this.trans_le (by omega)
  | ldVxK x =>
    rw [show t.pc = s.pc from h]
    omega
  | _ => exact (congrArg BitVec.toNat h).trans_le htwo

theorem exec_pc_bound {i : Instr} (hs : StackOk s) (hpc : s.pc.toNat ≤ 4094) (h : exec i s = .next t) :
    t.pc.toNat ≤ 0x10FE := by
  obtain hdone | hraised := exec_next_cases h
  · exact pcContract_bound hs hpc hdone.pc
  · obtain ⟨hsame, -, -, -⟩ := hraised.same
    rw [hsame]
    omega

/-- The wait clause of the invariant. -/
def WaitOk (s : State) : Prop := s.kw ≠ .running →
  s.fault = .none ∧ s.pc.toNat ≤ 4094 ∧ decodeWord (s.mem.readWord s.pc.toNat) = some (.ldVxK s.kwReg)

/-- Only LD Vx, K enters the wait, and it stands at the `pc` it was fetched from. -/
theorem exec_waitOk {i : Instr} (hkw : s.kw = .running) (hfault : s.fault = .none) (hpc : s.pc.toNat ≤ 4094)
    (hd : decodeWord s.fetchWord = some i) (h : exec i s = .next t) : WaitOk t := by
  cases i with
  | ldVxK x =>
    obtain rfl := Host.Outcome.next.inj h
    exact fun _ => ⟨hfault, hpc, hd⟩
  | _ => exact fun hne => absurd ((exec_same_wait h rfl).trans hkw) hne

theorem Inv.stackOk (h : Inv s) : StackOk s := ⟨h.depth, h.slots⟩

theorem Inv.of_parts (hmem : s.mem.wf = true) (hstack : StackOk s) (hpc : s.pc.toNat ≤ 0x10FE) (hwait : WaitOk s) : Inv s :=
  ⟨hmem, hstack.1, hstack.2, hpc, hwait⟩

theorem inv_exec {i : Instr} (hinv : Inv s) (hkw : s.kw = .running) (hfault : s.fault = .none) (hpc : s.pc.toNat ≤ 4094)
    (hd : decodeWord s.fetchWord = some i) (h : exec i s = .next t) : Inv t :=
  .of_parts (exec_mem_wf h hinv.memory) (exec_stackOk hinv.stackOk hpc h) (exec_pc_bound hinv.stackOk hpc h)
    (exec_waitOk hkw hfault hpc hd h)

/-! ## The invariant, step by step -/

theorem inv_runInstr (hinv : Inv s) (hkw : s.kw = .running) (hfault : s.fault = .none) (h : runInstr s = .next t) : Inv t := by
  obtain ⟨_, hrun⟩ | ⟨_, _, hrun⟩ | ⟨i, hpc, hd, hrun⟩ := runInstr_cases s
  · obtain rfl := Host.Outcome.next.inj (hrun.symm.trans h)
    exact .of_parts hinv.memory hinv.stackOk hinv.pcBound fun hne => absurd hkw hne
  · obtain rfl := Host.Outcome.next.inj (hrun.symm.trans h)
    exact .of_parts hinv.memory hinv.stackOk hinv.pcBound fun hne => absurd hkw hne
  · have hlatched : Inv (s.latchIr s.fetchWord) := .of_parts hinv.memory hinv.stackOk hinv.pcBound hinv.waiting
    exact inv_exec hlatched hkw hfault hpc hd (hrun.symm.trans h)

theorem inv_pollPress (hinv : Inv s) (hkw : s.kw = .awaitingPress) : Inv s.pollPress := by
  unfold State.pollPress
  split
  · exact .of_parts hinv.memory hinv.stackOk hinv.pcBound fun _ => hinv.waiting (by rw [hkw]; decide)
  · exact hinv

theorem inv_pollRelease (hinv : Inv s) (hkw : s.kw = .awaitingRelease) : Inv s.pollRelease := by
  cases hkey : s.key s.kwKey with
  | true => rwa [s.pollRelease_held hkey]
  | false =>
    obtain ⟨-, hpc, -⟩ := hinv.waiting (by rw [hkw]; decide)
    have hbound := toNat_pc_pollRelease_released hkey
    rw [s.pollRelease_released hkey] at hbound ⊢
    exact .of_parts hinv.memory hinv.stackOk (by omega) fun hne => absurd rfl hne

theorem inv_runStep (hinv : Inv s) (h : runStep s = .next t) : Inv t := by
  obtain ⟨_, hrun⟩ | ⟨_, hkw, hrun⟩ | ⟨_, hkw, hrun⟩ | ⟨hfault, hkw, hrun⟩ := runStep_cases s
  · obtain rfl := Host.Outcome.next.inj (hrun.symm.trans h)
    exact hinv
  · obtain rfl := Host.Outcome.next.inj (hrun.symm.trans h)
    exact inv_pollPress hinv hkw
  · obtain rfl := Host.Outcome.next.inj (hrun.symm.trans h)
    exact inv_pollRelease hinv hkw
  · exact inv_runInstr hinv hkw hfault (hrun.symm.trans h)

theorem inv_issueStep (hinv : Inv s) (keys : BitVec 16) (rnd dt st : Byte) (draws : Nat) :
    Inv (s.issueStep keys rnd dt st draws) :=
  .of_parts hinv.memory hinv.stackOk hinv.pcBound hinv.waiting

theorem inv_tick (hinv : Inv s) : Inv s.tick := by
  unfold State.tick
  split
  · exact hinv
  · exact .of_parts hinv.memory hinv.stackOk hinv.pcBound hinv.waiting

theorem inv_init {a : InitArgs} (ha : a.wf = true) : Inv (s.init a) := by
  obtain ⟨hp, hf⟩ := (InitArgs.wf_iff a).1 ha
  have hlen := initImage_length hf hp
  exact .of_parts (Memory.wfFrom_ofBytes (by omega)) ⟨Nat.zero_le _, fun j _ hlt => absurd hlt (Nat.not_lt_zero j)⟩
    (show 0x200 ≤ 0x10FE by decide) fun hne => absurd rfl hne

end

/-- Settles O53: a Step, whatever Ticks and samples it comes with, a Tick, and a well-formed Init keep the invariant. -/
theorem everyStepKeepsTheInvariant : Obligations.EveryStepKeepsTheInvariant := by
  unfold Obligations.EveryStepKeepsTheInvariant
  intro s t hinv h
  obtain ⟨keys, rnd, dt, st, draws, -, -, hstep⟩ | ⟨rest, -, hstep⟩ | ⟨a, rest, -, hstep⟩ := step_cases s
  · exact inv_runStep (inv_issueStep hinv keys rnd dt st draws) (hstep.symm.trans h)
  · obtain rfl := Host.Outcome.next.inj (hstep.symm.trans h)
    exact inv_tick (.of_parts hinv.memory hinv.stackOk hinv.pcBound hinv.waiting)
  · obtain ⟨hwf, rfl⟩ := State.init_of_initEvent_next (hstep.symm.trans h)
    exact inv_init hwf

/-- Settles O54: the reset state is the one Init with no program leaves. -/
theorem resetMeetsTheInvariant : Obligations.ResetMeetsTheInvariant := by
  unfold Obligations.ResetMeetsTheInvariant
  rw [← resetIsInitWithNoProgram]
  exact inv_init (by decide)

/-! ## Progress -/

theorem runInstr_next {s : State} (hsp : s.sp.toNat ≤ 16) : ∃ t, runInstr s = .next t := by
  obtain ⟨_, hrun⟩ | ⟨_, _, hrun⟩ | ⟨i, _, _, hrun⟩ := runInstr_cases s
  · exact ⟨_, hrun⟩
  · exact ⟨_, hrun⟩
  · rw [hrun]
    exact exec_next_of_depth i hsp

theorem runStep_next {s : State} (hsp : s.sp.toNat ≤ 16) : ∃ t, runStep s = .next t := by
  obtain ⟨_, hrun⟩ | ⟨_, _, hrun⟩ | ⟨_, _, hrun⟩ | ⟨_, _, hrun⟩ := runStep_cases s
  · exact ⟨_, hrun⟩
  · exact ⟨_, hrun⟩
  · exact ⟨_, hrun⟩
  · rw [hrun]
    exact runInstr_next hsp

/-- Settles O55: with `sp` in its range only an Init can be refused, by its arguments. -/
theorem stepsNeverStopExceptOnIllegalInit : Obligations.StepsNeverStopExceptOnIllegalInit := by
  unfold Obligations.StepsNeverStopExceptOnIllegalInit
  intro s hinv
  obtain ⟨keys, rnd, dt, st, draws, -, -, hstep⟩ | ⟨rest, -, hstep⟩ | ⟨a, rest, hhost, hstep⟩ := step_cases s
  · rw [hstep]
    exact .inl (runStep_next (inv_issueStep hinv keys rnd dt st draws).depth)
  · exact .inl ⟨_, hstep⟩
  · cases hwf : a.wf with
    | true => exact .inl ⟨_, hstep.trans (State.initEvent_wf _ hwf)⟩
    | false => exact .inr ⟨a, rest, hhost, hwf, hstep.trans (State.initEvent_refused _ hwf)⟩

/-! ## The word the host places (log 10, 18) -/

theorem decodeWord_of_decodeTableWord {n w : Nat} {i : Instr} (h : decodeTableWord n w = some i) :
    decodeWord (tableWord n w) = some i := by
  rw [decodeTableWord, decode_cons, wordOfBytes_bytes] at h
  cases hd : decodeWord (tableWord n w) with
  | none => simp [hd] at h
  | some j => simpa [hd] using h

theorem toNat_tableWord (w : Nat) : (tableWord 16 w).toNat = w % 65536 := by
  rw [tableWord, BitVec.toNat_ofNat]
  exact Nat.mod_mod _ _

theorem fetchablePc_le (pc : Word) : (fetchablePc pc).toNat ≤ 4094 := by
  unfold fetchablePc
  split
  · decide
  · omega

theorem fetchablePc_of_le {pc : Word} (h : pc.toNat ≤ 4094) : fetchablePc pc = pc :=
  if_neg (Nat.not_lt.2 h)

/-- The placed word is the one fetched: its two bytes read back. -/
theorem State.fetchWord_withWordAtPc {s : State} (hwf : s.mem.wf = true) (w : Word) : (s.withWordAtPc w).fetchWord = w := by
  have hin : (fetchablePc s.pc).toNat + [highByte w, lowByte w].length ≤ 4096 :=
    Nat.add_le_add_right (fetchablePc_le s.pc) 2
  have hhigh := Memory.read_writeBytes_inside (k := 0) hwf hin (by simp)
  have hlow := Memory.read_writeBytes_inside (k := 1) hwf hin (by simp)
  exact (congrArg₂ (· ++ ·) hhigh hlow).trans (wordOfBytes_bytes w)

theorem stepFirst_head {queue rest : List HostEvent} {n : Nat} {e : HostEvent} (h : stepFirst queue n = e :: rest) :
    ∃ keys rnd, e = .step keys rnd := by
  unfold stepFirst at h
  split at h <;> cases h <;> exact ⟨_, _, rfl⟩

/-- The step after the placement is a Step. -/
theorem step_withWordAtPc (s : State) (w : Word) : ∃ keys rnd dt st draws,
    step (s.withWordAtPc w) = runStep ((s.withWordAtPc w).issueStep keys rnd dt st draws) := by
  obtain ⟨keys, rnd, dt, st, draws, -, -, hstep⟩ | ⟨rest, hhost, -⟩ | ⟨a, rest, hhost, -⟩ := step_cases (s.withWordAtPc w)
  · exact ⟨keys, rnd, dt, st, draws, hstep⟩
  · obtain ⟨_, _, he⟩ := stepFirst_head hhost
    cases he
  · obtain ⟨_, _, he⟩ := stepFirst_head hhost
    cases he

/-- Settles O52. -/
theorem placedWordIsRunByTheNextStep : Obligations.PlacedWordIsRunByTheNextStep := by
  unfold Obligations.PlacedWordIsRunByTheNextStep
  intro s w i hwf hd
  have hword := State.fetchWord_withWordAtPc hwf (tableWord 16 w)
  obtain ⟨keys, rnd, dt, st, draws, hstep⟩ := step_withWordAtPc s (tableWord 16 w)
  have hrun := runInstr_decoded (s := (s.withWordAtPc (tableWord 16 w)).issueStep keys rnd dt st draws)
    (fetchablePc_le s.pc) ((congrArg decodeWord hword).trans (decodeWord_of_decodeTableWord hd))
  refine ⟨_, hstep.trans ((runStep_running rfl rfl).trans hrun), ?_, rfl, rfl, rfl, rfl, rfl, fetchablePc_of_le⟩
  exact (congrArg BitVec.toNat hword).trans (toNat_tableWord w)

end Sys2Proof.Machine
end
